-- ==== Sys2Proof/Word.lean ====
section
/-! DEFINITION. The two word sizes of the unit: bytes of the register window (20_memory.md R30) and command words
(30_encoding.md R45). -/

namespace Sys2Proof

/-- One byte-wide register of the window (R30). -/
abbrev Byte := BitVec 8

/-- A command word, and the width RES_W = TICK_W = MS_W of the wide counters (R5, R45). -/
abbrev Word := BitVec 32

end Sys2Proof
end

