-- ==== Sys2Proof/Syntax.lean ====
section
/-! DEFINITION. The commands of the unit: one constructor per row of spec/opcode_table.json (30_encoding.md R48), with the
operand fields of R47 as the unsigned integers they are read as. -/

namespace Sys2Proof

/-- The eleven commands. PIN is w[23:16], DUTY is w[15:0], DUR is w[23:0], each unsigned (R47); `Instr.WellFormed` bounds
them by their fields. -/
inductive Instr where
  /-- CLK_INIT, format N (R53). -/
  | clkInit
  /-- MS_READ, format N (R54). -/
  | msRead
  /-- US_READ, format N (R55). -/
  | usRead
  /-- SLEEP_MS, format T (R56). -/
  | sleepMs (dur : Nat)
  /-- SLEEP_US, format T (R58). -/
  | sleepUs (dur : Nat)
  /-- PWM_ENABLE, format P (R63). -/
  | pwmEnable (pin duty : Nat)
  /-- PWM_SETDUTY, format P (R64). -/
  | pwmSetDuty (pin duty : Nat)
  /-- PWM_DISABLE, format Q (R65). -/
  | pwmDisable (pin : Nat)
  /-- PWM_GETDUTY, format Q (R66). -/
  | pwmGetDuty (pin : Nat)
  /-- IRQ_OFF, format N (R71). -/
  | irqOff
  /-- IRQ_ON, format N (R72). -/
  | irqOn
deriving DecidableEq, Repr

end Sys2Proof
end

