-- ==== Sys2Proof/WellFormed.lean ====
section
/-! DEFINITION. When a command fits its word: each operand inside its field (30_encoding.md R46, R47). A pin that is not
PWM-capable is well formed: it is an execution fault, not a matter of encoding (R47). -/

namespace Sys2Proof

/-- PIN is an 8-bit field, 0..255 (R47). -/
def pinFits (pin : Nat) : Bool := decide (pin < 256)

/-- DUTY is a 16-bit field, 0..65535 (R47). -/
def dutyFits (duty : Nat) : Bool := decide (duty < 65536)

/-- DUR is a 24-bit field, 0..16777215 (R47). -/
def durFits (dur : Nat) : Bool := decide (dur < 16777216)

/-- Every operand fits its field of the command word. -/
def Instr.wf (i : Instr) : Bool :=
  match i with
  | .clkInit => true
  | .msRead => true
  | .usRead => true
  | .sleepMs dur => durFits dur
  | .sleepUs dur => durFits dur
  | .pwmEnable pin duty => pinFits pin && dutyFits duty
  | .pwmSetDuty pin duty => pinFits pin && dutyFits duty
  | .pwmDisable pin => pinFits pin
  | .pwmGetDuty pin => pinFits pin
  | .irqOff => true
  | .irqOn => true

/-- `Instr.wf` as a proposition. -/
abbrev Instr.WellFormed (i : Instr) : Prop := i.wf = true

end Sys2Proof
end

