-- ==== Sys2Proof/Decode.lean ====
section
/-! DEFINITION. Decoding and encoding of command words (30_encoding.md R45 to R50), little-endian bytes (20_memory.md R36),
and the host's entry `decodeTableWord`. -/

namespace Sys2Proof

/-- The legal opcodes of R48, in its order. -/
inductive Opcode where
  | clkInit | msRead | usRead | sleepMs | sleepUs | pwmEnable | pwmSetDuty | pwmDisable | pwmGetDuty | irqOff | irqOn
deriving DecidableEq, Repr

/-- A row of the opcode map: a word w selects it when w AND mask = pattern (R48). -/
structure OpcodeRow where
  op : Opcode
  pattern : Word
  mask : Word
deriving DecidableEq, Repr

/-- Why a word is illegal: the three grounds of R50, and a byte sequence shorter than one word (R45). -/
inductive DecodeError where
  /-- OP in 0x0, 0xC, 0xD, 0xE, 0xF. -/
  | unusedOpcode
  /-- RSV is not 0. -/
  | reservedBits
  /-- A non-zero must-be-zero bit of format N or Q. -/
  | mustBeZeroBits
  /-- Fewer than the four bytes of a command word. -/
  | truncated
deriving DecidableEq, Repr

/-- The opcode map (R48). -/
def opcodeMap : List OpcodeRow :=
  [ ⟨.clkInit,    0x10000000, 0xFFFFFFFF⟩,
    ⟨.msRead,     0x20000000, 0xFFFFFFFF⟩,
    ⟨.usRead,     0x30000000, 0xFFFFFFFF⟩,
    ⟨.sleepMs,    0x40000000, 0xFF000000⟩,
    ⟨.sleepUs,    0x50000000, 0xFF000000⟩,
    ⟨.pwmEnable,  0x60000000, 0xFF000000⟩,
    ⟨.pwmSetDuty, 0x70000000, 0xFF000000⟩,
    ⟨.pwmDisable, 0x80000000, 0xFF00FFFF⟩,
    ⟨.pwmGetDuty, 0x90000000, 0xFF00FFFF⟩,
    ⟨.irqOff,     0xA0000000, 0xFFFFFFFF⟩,
    ⟨.irqOn,      0xB0000000, 0xFFFFFFFF⟩ ]

/-- Whether w selects the row (R48). -/
def OpcodeRow.selects (r : OpcodeRow) (w : Word) : Bool := w &&& r.mask == r.pattern

/-- OP = w[31:28] (R46). -/
def opField (w : Word) : BitVec 4 := w.extractLsb' 28 4

/-- RSV = w[27:24] (R46). -/
def rsvField (w : Word) : BitVec 4 := w.extractLsb' 24 4

/-- PIN = w[23:16], unsigned (R47). -/
def pinField (w : Word) : Nat := (w.extractLsb' 16 8).toNat

/-- DUTY = w[15:0], unsigned (R47). -/
def dutyField (w : Word) : Nat := (w.extractLsb' 0 16).toNat

/-- DUR = w[23:0], unsigned (R47). -/
def durField (w : Word) : Nat := (w.extractLsb' 0 24).toNat

/-- The command of a legal opcode with the operands its format reads from w (R46, R47, R49). -/
def readOperands (op : Opcode) (w : Word) : Instr :=
  match op with
  | .clkInit => .clkInit
  | .msRead => .msRead
  | .usRead => .usRead
  | .sleepMs => .sleepMs (durField w)
  | .sleepUs => .sleepUs (durField w)
  | .pwmEnable => .pwmEnable (pinField w) (dutyField w)
  | .pwmSetDuty => .pwmSetDuty (pinField w) (dutyField w)
  | .pwmDisable => .pwmDisable (pinField w)
  | .pwmGetDuty => .pwmGetDuty (pinField w)
  | .irqOff => .irqOff
  | .irqOn => .irqOn

/-- The ground of R50 on which a word that selects no row is illegal; where several hold, the first in R50's order. -/
def illegalReason (w : Word) : DecodeError :=
  if opField w = 0x0#4 ∨ 0xC#4 ≤ opField w then .unusedOpcode
  else if rsvField w ≠ 0#4 then .reservedBits
  else .mustBeZeroBits

/-- Decoding, total on every 32-bit word (R48, R49, R50). -/
def decode (w : Word) : Except DecodeError Instr :=
  match opcodeMap.find? (fun r => r.selects w) with
  | some r => .ok (readOperands r.op w)
  | none => .error (illegalReason w)

/-- The command word of four bytes, byte k being bits [8k+7:8k] (R36). -/
def wordOfBytes (b0 b1 b2 b3 : Byte) : Word := b3 ++ b2 ++ b1 ++ b0

/-- Byte k of a word: bits [8k+7:8k] (R36). -/
def wordByte (w : Word) (k : Nat) : Byte := w.extractLsb' (8 * k) 8

/-- Decoding of the bytes of a word, lowest address first; the rest of the bytes is handed back. Every command is exactly
four bytes long (R45). -/
def decodeBytes : List Byte → Except DecodeError (Instr × List Byte)
  | b0 :: b1 :: b2 :: b3 :: rest =>
    match decode (wordOfBytes b0 b1 b2 b3) with
    | .ok i => .ok (i, rest)
    | .error e => .error e
  | _ => .error .truncated

/-- A word built from its opcode and bits [23:0], with RSV = 0 (R46). -/
def packWord (op : BitVec 4) (low : BitVec 24) : Word := op ++ 0#4 ++ low

/-- Bits [23:0] of formats P and Q: PIN then the low half (R46). -/
def packPin (pin : Nat) (low : BitVec 16) : BitVec 24 := BitVec.ofNat 8 pin ++ low

/-- The encoder: the word of a well-formed command, from the format table of R46 and the opcodes of R48. An
operand beyond its field is cut to it (assumption log 14). -/
def encode (i : Instr) : Word :=
  match i with
  | .clkInit => packWord 0x1 0
  | .msRead => packWord 0x2 0
  | .usRead => packWord 0x3 0
  | .sleepMs dur => packWord 0x4 (BitVec.ofNat 24 dur)
  | .sleepUs dur => packWord 0x5 (BitVec.ofNat 24 dur)
  | .pwmEnable pin duty => packWord 0x6 (packPin pin (BitVec.ofNat 16 duty))
  | .pwmSetDuty pin duty => packWord 0x7 (packPin pin (BitVec.ofNat 16 duty))
  | .pwmDisable pin => packWord 0x8 (packPin pin 0)
  | .pwmGetDuty pin => packWord 0x9 (packPin pin 0)
  | .irqOff => packWord 0xA 0
  | .irqOn => packWord 0xB 0

/-- The bytes of a command as the host stores them, CMD0 first (R36). -/
def encodeBytes (i : Instr) : List Byte :=
  [wordByte (encode i) 0, wordByte (encode i) 1, wordByte (encode i) 2, wordByte (encode i) 3]

/-- The word whose low nbits bits are those of w, every bit above being 0. -/
def tableWord (nbits w : Nat) : Word := BitVec.ofNat 32 (w % 2 ^ nbits)

/-- The instruction the decoder reads from the bits w of a row of spec/opcode_table.json, its bytes laid out little-endian
(R36); none where the decoder rejects the word. -/
def decodeTableWord (nbits w : Nat) : Option Instr :=
  match decodeBytes [wordByte (tableWord nbits w) 0, wordByte (tableWord nbits w) 1,
      wordByte (tableWord nbits w) 2, wordByte (tableWord nbits w) 3] with
  | .ok (i, _) => some i
  | .error _ => none

end Sys2Proof
end

