-- ==== Sys2Proof/Config.lean ====
section
/-! DEFINITION. What an implementation fixes: the pairs and channels of the PWM sub-unit, the agents, the parameters of
00_scope.md R5 at this hardware's values (assumption log 15), the open parameter BASE and the free choice of the next agent. -/

namespace Sys2Proof

/-- A PWM timer pair p, NPAIR = 3 (R5, R14). -/
inductive Pair where
  | p0 | p1 | p2
deriving DecidableEq, Repr, Inhabited

/-- Which of the two channels of a pair (R13, R14). -/
inductive Side where
  | A | B
deriving DecidableEq, Repr, Inhabited

/-- A PWM channel: a pair and a side, NCH = 6 (R5, R13). -/
structure Channel where
  pair : Pair
  side : Side
deriving DecidableEq, Repr, Inhabited

/-- The agents of R6: anything that takes a step of its own. -/
inductive Agent where
  | host
  | rawStep
  | cmEvent
  | isrOvf
  | isrCm
  | sleeper
  | pwmTick (p : Pair)
deriving DecidableEq, Repr, Inhabited

/-- RAW_W, width of the raw counter (R5). -/
def Config.rawW : Nat := 8

/-- TICK_W, width of TickCounter (R5). -/
def Config.tickW : Nat := 32

/-- RES_W, width of RESULT and of every microsecond value (R5). -/
def Config.resW : Nat := 32

/-- PEND_LOW_LIMIT: the pending-overflow correction applies only while RAW is below it (R5, R10). -/
def Config.pendLowLimit : Nat := 255

/-- US_NUM: microseconds per raw count, numerator (R5). -/
def Config.usNum : Nat := 4

/-- US_DEN: microseconds per raw count, denominator (R5). -/
def Config.usDen : Nat := 1

/-- SLEEP_STEP_US: the step by which SLEEP_MS consumes its duration (R5). -/
def Config.sleepStepUs : Nat := 1000

/-- DUTY_MAX, the largest duty value (R5). -/
def Config.dutyMax : Nat := 255

/-- WGM_PWM, the waveform-mode value PWM_ENABLE writes (R5). -/
def Config.wgmPwm : BitVec 2 := 0b11#2

/-- CS_PWM, the prescaler value PWM_ENABLE writes; non-zero (R5). -/
def Config.csPwm : BitVec 3 := 0b011#3

/-- PIN_MAX, the largest logical pin identifier (R5, R11). -/
def Config.pinMax : Nat := 19

/-- BASE, the host bus address of byte 0 of the register window: OPEN (R5). It has no body, so nothing can depend on its
value (assumption log 3). -/
opaque Config.base : Nat

/-- The free choice of the next agent (R89), applied to the counter `State.picks`, for the steps beyond the events that
`State.sched` already holds. It has no body, so a claim about a step holds whichever agent it names (assumption log 1). -/
opaque Config.schedule : Nat → Agent

end Sys2Proof
end

