-- ==== Sys2Proof/Machine/State.lean ====
section
/-! DEFINITION. The state of the unit (10_state.md R15), plain data, with the model's own fields for the surroundings of the
unit; the reasons a step can stop; the reset state (70_reset_and_hazards.md R96). -/

namespace Sys2Proof.Machine

/-- One value per PWM pair: MODE[0..2], PCNT[0..2] (R15). -/
structure PairFile (α : Type) where
  p0 : α
  p1 : α
  p2 : α
deriving DecidableEq, Repr

/-- One value per PWM channel: BUF[0..5], ACT[0..5] (R15), in the order of the channel index of R13. -/
structure ChanFile (α : Type) where
  c0A : α
  c0B : α
  c1A : α
  c1B : α
  c2A : α
  c2B : α
deriving DecidableEq, Repr

/-- The command latches CMDL[0..3] (R15, R23). -/
structure CmdLatches where
  l0 : Byte
  l1 : Byte
  l2 : Byte
  l3 : Byte
deriving DecidableEq, Repr

/-- The faults a command can raise (60_exceptions.md R75). They are latched in FAULT and FCODE and stop nothing: no
constructor of `Fault` stands for one. -/
inductive FaultCode where
  | illegalCmd
  | badPin
  | dutyWhileDisabled
  | sleepMasked
  | sleepNoClk
  | initTwice
  | busyOverrun
deriving DecidableEq, Repr

/-- One event of the single total order of R40: a step of an agent (R6), a byte access of the host's bus (R33, R34) at
address BASE + off, or the external reset (R96), in any order (assumption log 16). A bus access that is not one byte wide is an event the model refuses
(R37). -/
inductive Event where
  | agent (a : Agent)
  | busRead (off : Int) (width : Nat)
  | busWrite (off : Int) (bytes : List Byte)
  | reset
deriving DecidableEq, Repr

/-- The state: every element of R15, then the model's own fields (assumption log 7). -/
structure State where
  /-- GIE, global interrupt-delivery enable (R22). -/
  gie : Bool
  /-- RUN, the clock timers free-run (R22). -/
  run : Bool
  /-- TIE_OVF, overflow source enable (R22). -/
  tieOvf : Bool
  /-- TIE_CM, compare-match source enable (R22). -/
  tieCm : Bool
  /-- OVF_PEND, overflow pending (R21). -/
  ovfPend : Bool
  /-- CM_PEND, compare match pending (R21). -/
  cmPend : Bool
  /-- RAW, the raw free-running counter (R20). -/
  raw : BitVec 8
  /-- TICK, TickCounter (R18). -/
  tick : BitVec 32
  /-- MS, MillisecondCounter (R19). -/
  ms : BitVec 32
  /-- CMDL[0..3] (R23). -/
  cmdl : CmdLatches
  /-- RESULT (R16, R23). -/
  result : BitVec 32
  /-- BUSY, a SLEEP_MS is in progress (R23). -/
  busy : Bool
  /-- FAULT, a fault has happened since reset (R23, R74). -/
  fault : Bool
  /-- FCODE, the code of the first fault (R74, R75). -/
  fcode : BitVec 8
  /-- SLP_START, the sleep's timestamp (R23, R56). -/
  slpStart : BitVec 32
  /-- SLP_REM, the sleep's remaining duration (R23, R56). -/
  slpRem : BitVec 24
  /-- MODE[0..2] (R24); bit 5 is stored and stays 0 (assumption log 17). -/
  mode : PairFile Byte
  /-- BUF[0..5] (R25). -/
  buf : ChanFile Byte
  /-- ACT[0..5] (R25). -/
  act : ChanFile Byte
  /-- PCNT[0..2] (R25). -/
  pcnt : PairFile Byte
  /-- hpc, index of the next program word (R17). -/
  hpc : Nat
  /-- The model's own: the host's program P (R17). -/
  prog : List Word
  /-- The model's own: the byte the host's last bus read returned (R33). -/
  hostRead : Option Byte
  /-- The model's own: the events of the free schedule (R89) that are already decided, next first. -/
  sched : List Event
  /-- The model's own: how many agents `Config.schedule` has chosen. -/
  picks : Nat
deriving DecidableEq, Repr

/-- Why the machine stops with a fault. No instruction raises one: the unit's own faults are latched (R74). -/
inductive Fault where
  /-- Raised by a bus event whose address is outside BASE+0x00..BASE+0x1F: such addresses do not belong to the unit and the
  spec says nothing of them (R30). Safe: the hardware goes on, the model claims nothing. -/
  | outsideWindow
deriving DecidableEq, Repr

/-- Why a step has no meaning. -/
inductive Refusal where
  /-- Raised by an arm of `exec` for an instruction without a meaning; no arm is left that does. Safe. -/
  | notModelled (mnemonic : String)
  /-- Raised by a bus event that is not one byte wide, as R37 asks of a model. Safe: it errs toward unprovable. -/
  | accessWidth
deriving DecidableEq, Repr

/-- The machine right after reset: every element of R15 at its reset value, 0 for each (R15, R96). The model's own fields
are empty (assumption log 7). -/
def State.reset : State where
  gie := false
  run := false
  tieOvf := false
  tieCm := false
  ovfPend := false
  cmPend := false
  raw := 0
  tick := 0
  ms := 0
  cmdl := ⟨0, 0, 0, 0⟩
  result := 0
  busy := false
  fault := false
  fcode := 0x00
  slpStart := 0
  slpRem := 0
  mode := ⟨0x00, 0x00, 0x00⟩
  buf := ⟨0, 0, 0, 0, 0, 0⟩
  act := ⟨0, 0, 0, 0, 0, 0⟩
  pcnt := ⟨0, 0, 0⟩
  hpc := 0
  prog := []
  hostRead := none
  sched := []
  picks := 0

end Sys2Proof.Machine
end

