-- ==== Sys2Proof/Machine/Operands.lean ====
section
/-! DEFINITION. Operand forms: the pin map and the pin check (00_scope.md R11 to R13, 41_pwm.md R62), the duty clamp
(R8), the fields of a MODE register (10_state.md R24) and the indexing of the PWM register files (R13, R15). -/

namespace Sys2Proof.Machine

/-- The value of a pair's register. -/
def pairGet {α : Type} (f : PairFile α) (p : Pair) : α :=
  match p with
  | .p0 => f.p0
  | .p1 => f.p1
  | .p2 => f.p2

/-- The register file with a pair's register replaced. -/
def pairSet {α : Type} (f : PairFile α) (p : Pair) (v : α) : PairFile α :=
  match p with
  | .p0 => { f with p0 := v }
  | .p1 => { f with p1 := v }
  | .p2 => { f with p2 := v }

/-- The value of a channel's register. -/
def chanGet {α : Type} (f : ChanFile α) (ch : Channel) : α :=
  match ch with
  | ⟨.p0, .A⟩ => f.c0A
  | ⟨.p0, .B⟩ => f.c0B
  | ⟨.p1, .A⟩ => f.c1A
  | ⟨.p1, .B⟩ => f.c1B
  | ⟨.p2, .A⟩ => f.c2A
  | ⟨.p2, .B⟩ => f.c2B

/-- The register file with a channel's register replaced. -/
def chanSet {α : Type} (f : ChanFile α) (ch : Channel) (v : α) : ChanFile α :=
  match ch with
  | ⟨.p0, .A⟩ => { f with c0A := v }
  | ⟨.p0, .B⟩ => { f with c0B := v }
  | ⟨.p1, .A⟩ => { f with c1A := v }
  | ⟨.p1, .B⟩ => { f with c1B := v }
  | ⟨.p2, .A⟩ => { f with c2A := v }
  | ⟨.p2, .B⟩ => { f with c2B := v }

/-- The number p of a pair (R13). -/
def pairIndex (p : Pair) : Nat :=
  match p with
  | .p0 => 0
  | .p1 => 1
  | .p2 => 2

/-- The channel index ch = 2*p + (c = B ? 1 : 0) (R13). -/
def channelIndex (ch : Channel) : Nat :=
  2 * pairIndex ch.pair + (match ch.side with | .A => 0 | .B => 1)

/-- The other side of a pair. -/
def otherSide (c : Side) : Side :=
  match c with
  | .A => .B
  | .B => .A

/-- The sibling: the other channel of the same pair (R14). -/
def sibling (ch : Channel) : Channel := ⟨ch.pair, otherSide ch.side⟩

/-- An identifier 0..PIN_MAX is a logical pin (R11). -/
def isLogicalPin (pin : Nat) : Bool := decide (pin ≤ Config.pinMax)

/-- A<k> is the logical pin 14 + k, the same line as D<14+k> (R11). -/
def analogPin (k : Nat) : Nat := 14 + k

/-- PWM_PIN_MAP (R13, assumption log 8): the six PWM-capable pins with their channels; every other identifier is not
PWM-capable (R12). -/
def pwmPinMap (pin : Nat) : Option Channel :=
  match pin with
  | 6 => some ⟨.p0, .A⟩
  | 5 => some ⟨.p0, .B⟩
  | 9 => some ⟨.p1, .A⟩
  | 10 => some ⟨.p1, .B⟩
  | 11 => some ⟨.p2, .A⟩
  | 3 => some ⟨.p2, .B⟩
  | _ => none

/-- The rows of R13's table, logical pin and channel, in its order. -/
def pinMapRows : List (Nat × Channel) :=
  [(6, ⟨.p0, .A⟩), (5, ⟨.p0, .B⟩), (9, ⟨.p1, .A⟩), (10, ⟨.p1, .B⟩), (11, ⟨.p2, .A⟩), (3, ⟨.p2, .B⟩)]

/-- The premise R13 asks for: a pin map is the table's, no row more and none less (assumption log 8). -/
def IsPinMapOfR13 (map : Nat → Option Channel) : Prop :=
  ∀ (pin : Nat) (ch : Channel), map pin = some ch ↔ (pin, ch) ∈ pinMapRows

/-- clamp(v) = min(v, DUTY_MAX), as the 8-bit duty register holds it (R8, R25). -/
def clampDuty (duty : Nat) : Byte := BitVec.ofNat 8 (min duty Config.dutyMax)

/-- OCEbit(c): 0x80 for A, 0x40 for B (R24, 41_pwm.md). -/
def oceBit (c : Side) : Byte :=
  match c with
  | .A => 0x80
  | .B => 0x40

/-- SHARED: WGM_PWM and CS_PWM in bits [4:0] (R24, 41_pwm.md). -/
def sharedGroup : Byte := 0#3 ++ Config.wgmPwm ++ Config.csPwm

/-- OCE_c of a MODE value (R24). -/
def modeOce (m : Byte) (c : Side) : Bool := m &&& oceBit c != 0

/-- WGM of a MODE value, bits 4:3 (R24). -/
def modeWgm (m : Byte) : BitVec 2 := m.extractLsb' 3 2

/-- CS of a MODE value, bits 2:0 (R24). -/
def modeCs (m : Byte) : BitVec 3 := m.extractLsb' 0 3

/-- MODE as PWM_ENABLE of side c writes it: the shared group set, then the channel's own OCE bit (R63). -/
def modeEnabled (m : Byte) (c : Side) : Byte := (m &&& ~~~(0x1F : Byte) ||| sharedGroup) ||| oceBit c

/-- MODE as PWM_DISABLE of side c writes it: the channel's own OCE bit cleared (R65). -/
def modeDisabled (m : Byte) (c : Side) : Byte := m &&& ~~~(oceBit c)

end Sys2Proof.Machine
end

