-- ==== Sys2Proof/Machine/Ops.lean ====
section
/-! DEFINITION. The named operations over the state: register updates, raising a fault (60_exceptions.md R74) and what ends
it, the reset (70_reset_and_hazards.md R96), the microsecond snapshot (00_scope.md R10), the command latches (R34), the
program store of the host (R17). -/

namespace Sys2Proof.Machine

/-- MODE[p] <- v. -/
def setMode (p : Pair) (v : Byte) (s : State) : State := { s with mode := pairSet s.mode p v }

/-- BUF[ch] <- v. -/
def setBuf (ch : Channel) (v : Byte) (s : State) : State := { s with buf := chanSet s.buf ch v }

/-- ACT[ch] <- v. -/
def setAct (ch : Channel) (v : Byte) (s : State) : State := { s with act := chanSet s.act ch v }

/-- PCNT[p] <- v. -/
def setPcnt (p : Pair) (v : Byte) (s : State) : State := { s with pcnt := pairSet s.pcnt p v }

/-- RESULT <- v. -/
def setResult (v : Word) (s : State) : State := { s with result := v }

/-- GIE <- v. -/
def setGie (v : Bool) (s : State) : State := { s with gie := v }

/-- The code a fault leaves in FCODE (R75). -/
def faultByte (c : FaultCode) : Byte :=
  match c with
  | .illegalCmd => 0x01
  | .badPin => 0x02
  | .dutyWhileDisabled => 0x03
  | .sleepMasked => 0x04
  | .sleepNoClk => 0x05
  | .initTwice => 0x06
  | .busyOverrun => 0x07

/-- `raise Fault(code)`: FAULT and FCODE are set and every other element keeps its value from before the command (R74). The
unit's one exception entry: nothing is saved, no control is transferred. A command that raises it makes no other write. The
faulted state is a next state (assumption log 6). -/
def raiseFault (c : FaultCode) (s : State) : State := { s with fault := true, fcode := faultByte c }

/-- Reset of the unit, the only way out of a fault (R74, R96): every element of R15 to its reset value. The host's program,
the byte the host holds and the schedule are not the unit's and stay (assumption log 7). -/
def resetUnit (s : State) : State :=
  { State.reset with prog := s.prog, hostRead := s.hostRead, sched := s.sched, picks := s.picks }

/-- The tick the snapshot uses: a pending overflow counts as done while RAW is below PEND_LOW_LIMIT (R10). -/
def snapshotTick (s : State) : BitVec 32 :=
  if s.ovfPend = true ∧ s.raw.toNat < Config.pendLowLimit then s.tick + 1 else s.tick

/-- usNow(s), the microsecond value the clock presents (R10). The product and the quotient are exact; `mod` applies where
R10 writes it. -/
def usNow (s : State) : Word :=
  let comb := ((snapshotTick s).toNat * 2 ^ Config.rawW + s.raw.toNat) % 2 ^ Config.resW
  BitVec.ofNat 32 (comb * Config.usNum / Config.usDen)

/-- The microseconds since SLP_START, modulo 2^32 (R57). -/
def sleepElapsed (s : State) : Word := usNow s - s.slpStart

/-- The latches as the host writes a whole word to CMD0..CMD3 (R36, R88). -/
def latchesOf (w : Word) : CmdLatches := ⟨wordByte w 0, wordByte w 1, wordByte w 2, wordByte w 3⟩

/-- The word the latches hold (R34, R36). -/
def latchedWord (c : CmdLatches) : Word := wordOfBytes c.l0 c.l1 c.l2 c.l3

/-- CMDL <- c. -/
def setLatches (c : CmdLatches) (s : State) : State := { s with cmdl := c }

/-- hpc <- hpc + 1 (R88). -/
def bumpHpc (s : State) : State := { s with hpc := s.hpc + 1 }

/-- A program with w at index k, padded with the illegal word 0 where it is shorter than k. -/
def placeWord (prog : List Word) (k : Nat) (w : Word) : List Word :=
  prog.take k ++ List.replicate (k - prog.length) 0 ++ w :: prog.drop (k + 1)

/-- The state after an outcome, changed by f; a stop stays a stop. -/
def onNext (o : Host.Outcome State Fault Refusal) (f : State → State) : Host.Outcome State Fault Refusal :=
  match o with
  | .next s => .next (f s)
  | .fault r => .fault r
  | .refused r => .refused r

/-- `resolve(pin)` in front of a PWM command: BAD_PIN where the pin is not PWM-capable, the command's own effect on the
channel otherwise (R62). -/
def withChannel (pin : Nat) (f : Channel → State → State) (s : State) : State :=
  match pwmPinMap pin with
  | none => raiseFault .badPin s
  | some ch => f ch s

end Sys2Proof.Machine
end

