-- ==== Sys2Proof/Machine/Flags.lean ====
section
/-! DEFINITION. Status and flag views: STATUS and CLKCTL (20_memory.md R31, R33), the enabling conditions of the agents
(40_clock.md R57, 41_pwm.md R67, 60_exceptions.md R78 to R88), the channel state and the output of a channel
(10_state.md R26, R28). -/

namespace Sys2Proof.Machine

/-- STATUS: bit 0 BUSY, bit 1 FAULT, bit 2 GIE, bits 7:3 read 0 (R31). -/
def statusByte (s : State) : Byte :=
  0#5 ++ BitVec.ofBool s.gie ++ BitVec.ofBool s.fault ++ BitVec.ofBool s.busy

/-- CLKCTL: bit 0 RUN, bit 1 TIE_OVF, bit 2 TIE_CM, bit 3 OVF_PEND, bit 4 CM_PEND, bits 7:5 read 0 (R31). -/
def clkctlByte (s : State) : Byte :=
  0#3 ++ BitVec.ofBool s.cmPend ++ BitVec.ofBool s.ovfPend ++ BitVec.ofBool s.tieCm ++ BitVec.ofBool s.tieOvf
    ++ BitVec.ofBool s.run

/-- HOST has a program step: hpc < n, BUSY = 0, FAULT = 0 (R88). -/
def hostEnabled (s : State) : Bool := decide (s.hpc < s.prog.length) && !s.busy && !s.fault

/-- ISR_OVF is enabled (R78, R79). -/
def isrOvfEnabled (s : State) : Bool := s.gie && s.tieOvf && s.ovfPend

/-- ISR_CM is enabled (R78, R80). -/
def isrCmEnabled (s : State) : Bool := s.gie && s.tieCm && s.cmPend

/-- SLEEPER is enabled (R57). -/
def sleeperEnabled (s : State) : Bool := s.busy && decide (Config.sleepStepUs ≤ (sleepElapsed s).toNat)

/-- PWMTICK[p] is enabled (R67). -/
def pwmTickEnabled (p : Pair) (s : State) : Bool := modeCs (pairGet s.mode p) != 0

/-- Whether an agent has a step in this state (R6, R89). -/
def agentEnabled (a : Agent) (s : State) : Bool :=
  match a with
  | .host => hostEnabled s
  | .rawStep => s.run
  | .cmEvent => s.run
  | .isrOvf => isrOvfEnabled s
  | .isrCm => isrCmEnabled s
  | .sleeper => sleeperEnabled s
  | .pwmTick p => pwmTickEnabled p s

/-- Whether the output-compare enable of a channel is 1 (R24). -/
def channelOn (s : State) (ch : Channel) : Bool := modeOce (pairGet s.mode ch.pair) ch.side

/-- The abstract state of a channel: none for Disabled, some d for Enabled(d) (R26). -/
def channelDuty (s : State) (ch : Channel) : Option Byte :=
  if channelOn s ch then some (chanGet s.buf ch) else none

/-- OUT[ch]: 1 when OCE_c = 1 and PCNT[p] < ACT[ch] (R28). -/
def out (s : State) (ch : Channel) : Bool :=
  channelOn s ch && decide ((pairGet s.pcnt ch.pair).toNat < (chanGet s.act ch).toNat)

end Sys2Proof.Machine
end

