-- ==== Sys2Proof/Machine/Agents.lean ====
section
/-! DEFINITION. The autonomous agents: the raw counter and the compare-match event (60_exceptions.md R85, R86), the two
interrupt services (R79, R80), the sleep engine (40_clock.md R57) and the PWM period counters (41_pwm.md R67). Each is the
effect of one step of an agent that is enabled. -/

namespace Sys2Proof.Machine

/-- RAWSTEP: RAW counts up; the wrap to 0 is the overflow event and sets OVF_PEND, a second one being lost (R85). -/
def rawStep (s : State) : State :=
  { s with raw := s.raw + 1, ovfPend := s.ovfPend || decide (s.raw + 1 = 0) }

/-- CMEVENT: CM_PEND <- 1 (R86). -/
def cmEvent (s : State) : State := { s with cmPend := true }

/-- ISR_OVF: the flag is cleared and TICK counts up in one step; nothing is saved or restored (R79, R82, R83). -/
def isrOvf (s : State) : State := { s with ovfPend := false, tick := s.tick + 1 }

/-- ISR_CM: the flag is cleared and MS counts up in one step; nothing is saved or restored (R80, R82, R83). -/
def isrCm (s : State) : State := { s with cmPend := false, ms := s.ms + 1 }

/-- SLEEPER: one SLEEP_STEP_US of the duration is consumed; BUSY clears when the new SLP_REM is 0 (R57).
At SLP_REM = 0 the difference wraps (assumption log 9). -/
def sleeperStep (s : State) : State :=
  { s with
    slpRem := s.slpRem - 1,
    slpStart := s.slpStart + BitVec.ofNat 32 Config.sleepStepUs,
    busy := s.busy && decide (s.slpRem - 1 ≠ 0) }

/-- The double-buffer load of a pair: ACT <- BUF for both channels (R67). -/
def loadActive (p : Pair) (s : State) : State :=
  setAct ⟨p, .B⟩ (chanGet s.buf ⟨p, .B⟩) (setAct ⟨p, .A⟩ (chanGet s.buf ⟨p, .A⟩) s)

/-- PWMTICK[p]: PCNT[p] counts up; at the wrap to 0 both channels of the pair load ACT from BUF (R67). -/
def pwmTick (p : Pair) (s : State) : State :=
  if pairGet s.pcnt p + 1 = 0 then loadActive p (setPcnt p (pairGet s.pcnt p + 1) s)
  else setPcnt p (pairGet s.pcnt p + 1) s

end Sys2Proof.Machine
end

