-- ==== Sys2Proof/Machine/Clock.lean ====
section
/-! DEFINITION. The meanings of the five clock commands (40_clock.md R53 to R58). -/

namespace Sys2Proof.Machine

/-- What CLK_INIT writes where it does not fault (R53). -/
def startClock (s : State) : State :=
  { s with
    tick := 0, ms := 0, raw := 0, ovfPend := false, cmPend := false,
    run := true, tieOvf := true, tieCm := true, gie := true }

/-- What SLEEP_MS d writes where it does not fault: the start timestamp, the remaining duration, and BUSY unless d = 0
(R56). -/
def beginSleep (dur : Nat) (s : State) : State :=
  { s with slpStart := usNow s, slpRem := BitVec.ofNat 24 dur, busy := decide (dur ≠ 0) }

/-- CLK_INIT (R53): INIT_TWICE when RUN = 1. -/
def execClkInit (s : State) : Host.Outcome State Fault Refusal :=
  if s.run then .next (raiseFault .initTwice s) else .next (startClock s)

/-- MS_READ (R54): RESULT <- MS; the interrupt enable is as before. -/
def execMsRead (s : State) : Host.Outcome State Fault Refusal :=
  .next (setResult s.ms s)

/-- US_READ (R55): RESULT <- usNow; the correction is computed, never stored. -/
def execUsRead (s : State) : Host.Outcome State Fault Refusal :=
  .next (setResult (usNow s) s)

/-- SLEEP_MS (R56): SLEEP_MASKED when GIE = 0, then SLEEP_NOCLK when RUN = 0. -/
def execSleepMs (dur : Nat) (s : State) : Host.Outcome State Fault Refusal :=
  if !s.gie then .next (raiseFault .sleepMasked s)
  else if !s.run then .next (raiseFault .sleepNoClk s)
  else .next (beginSleep dur s)

/-- SLEEP_US (R58): no state change, whatever the duration, GIE and RUN. -/
def execSleepUs (_dur : Nat) (s : State) : Host.Outcome State Fault Refusal :=
  .next s

end Sys2Proof.Machine
end

