-- ==== Sys2Proof/Machine/Irq.lean ====
section
/-! DEFINITION. The meanings of the two interrupt-delivery commands (42_irq_control.md R71, R72). -/

namespace Sys2Proof.Machine

/-- IRQ_OFF (R71): GIE <- 0; pending flags are kept. -/
def execIrqOff (s : State) : Host.Outcome State Fault Refusal :=
  .next (setGie false s)

/-- IRQ_ON (R72): GIE <- 1. -/
def execIrqOn (s : State) : Host.Outcome State Fault Refusal :=
  .next (setGie true s)

end Sys2Proof.Machine
end

