-- ==== Sys2Proof/Machine/Pwm.lean ====
section
/-! DEFINITION. The meanings of the four PWM commands (41_pwm.md R62 to R66). -/

namespace Sys2Proof.Machine

/-- What PWM_ENABLE does to its channel (R63). -/
def enableChannel (duty : Nat) (ch : Channel) (s : State) : State :=
  setBuf ch (clampDuty duty) (setMode ch.pair (modeEnabled (pairGet s.mode ch.pair) ch.side) s)

/-- What PWM_SETDUTY does to its channel: DUTY_WHILE_DISABLED on a Disabled channel (R64). -/
def writeDuty (duty : Nat) (ch : Channel) (s : State) : State :=
  if channelOn s ch then setBuf ch (clampDuty duty) s else raiseFault .dutyWhileDisabled s

/-- What PWM_DISABLE does to its channel (R65). -/
def disableChannel (ch : Channel) (s : State) : State :=
  setBuf ch 0 (setMode ch.pair (modeDisabled (pairGet s.mode ch.pair) ch.side) s)

/-- What PWM_GETDUTY does with its channel: RESULT <- zext_32(BUF[ch]) (R66). -/
def readDuty (ch : Channel) (s : State) : State :=
  setResult ((chanGet s.buf ch).setWidth 32) s

/-- PWM_ENABLE (R62, R63). -/
def execPwmEnable (pin duty : Nat) (s : State) : Host.Outcome State Fault Refusal :=
  .next (withChannel pin (enableChannel duty) s)

/-- PWM_SETDUTY (R62, R64). -/
def execPwmSetDuty (pin duty : Nat) (s : State) : Host.Outcome State Fault Refusal :=
  .next (withChannel pin (writeDuty duty) s)

/-- PWM_DISABLE (R62, R65). -/
def execPwmDisable (pin : Nat) (s : State) : Host.Outcome State Fault Refusal :=
  .next (withChannel pin disableChannel s)

/-- PWM_GETDUTY (R62, R66). -/
def execPwmGetDuty (pin : Nat) (s : State) : Host.Outcome State Fault Refusal :=
  .next (withChannel pin readDuty s)

end Sys2Proof.Machine
end

