-- ==== Sys2Proof/Machine/Dispatch.lean ====
section
/-! DEFINITION. One arm per command (30_encoding.md R49): each a direct call of the command's meaning. -/

namespace Sys2Proof.Machine

def exec (i : Instr) (s : State) : Host.Outcome State Fault Refusal :=
  match i with
  | .clkInit => Sys2Proof.Machine.execClkInit s
  | .msRead => Sys2Proof.Machine.execMsRead s
  | .usRead => Sys2Proof.Machine.execUsRead s
  | .sleepMs dur => Sys2Proof.Machine.execSleepMs dur s
  | .sleepUs dur => Sys2Proof.Machine.execSleepUs dur s
  | .pwmEnable pin duty => Sys2Proof.Machine.execPwmEnable pin duty s
  | .pwmSetDuty pin duty => Sys2Proof.Machine.execPwmSetDuty pin duty s
  | .pwmDisable pin => Sys2Proof.Machine.execPwmDisable pin s
  | .pwmGetDuty pin => Sys2Proof.Machine.execPwmGetDuty pin s
  | .irqOff => Sys2Proof.Machine.execIrqOff s
  | .irqOn => Sys2Proof.Machine.execIrqOn s

end Sys2Proof.Machine
end

