-- ==== Sys2Proof/Machine/HostAgent.lean ====
section
/-! DEFINITION. The host's side of the unit: issuing a command word (20_memory.md R35, R76), byte reads and writes of the
window (R33, R34, R37), the HOST agent's program step (60_exceptions.md R88), and what one event of the schedule does
(R89). -/

namespace Sys2Proof.Machine

/-- `execute(w)`: an illegal word raises ILLEGAL_CMD, a legal one runs its command (R49, R50). -/
def execute (w : Word) (s : State) : Host.Outcome State Fault Refusal :=
  match decode w with
  | .ok i => exec i s
  | .error _ => .next (raiseFault .illegalCmd s)

/-- `issue(w)`: dropped while FAULT = 1, BUSY_OVERRUN while BUSY = 1, else executed (R35, R76). -/
def issue (w : Word) (s : State) : Host.Outcome State Fault Refusal :=
  if s.fault then .next s
  else if s.busy then .next (raiseFault .busyOverrun s)
  else execute w s

/-- The byte of the window at an offset 0x00..0x1F (R31, R33). -/
def windowByte (off : Nat) (s : State) : Byte :=
  match off with
  | 0x04 => wordByte s.result 0
  | 0x05 => wordByte s.result 1
  | 0x06 => wordByte s.result 2
  | 0x07 => wordByte s.result 3
  | 0x08 => statusByte s
  | 0x09 => s.fcode
  | 0x0A => clkctlByte s
  | 0x0B => s.raw
  | 0x0C => pairGet s.mode .p0
  | 0x0D => pairGet s.mode .p1
  | 0x0E => pairGet s.mode .p2
  | 0x10 => chanGet s.buf ⟨.p0, .A⟩
  | 0x11 => chanGet s.buf ⟨.p0, .B⟩
  | 0x12 => chanGet s.buf ⟨.p1, .A⟩
  | 0x13 => chanGet s.buf ⟨.p1, .B⟩
  | 0x14 => chanGet s.buf ⟨.p2, .A⟩
  | 0x15 => chanGet s.buf ⟨.p2, .B⟩
  | 0x16 => pairGet s.pcnt .p0
  | 0x17 => pairGet s.pcnt .p1
  | 0x18 => pairGet s.pcnt .p2
  | _ => 0x00

/-- The window's register at an offset from BASE, none outside 0x00..0x1F (R30). -/
def windowOffset (off : Int) : Option Nat := if 0 ≤ off ∧ off < 32 then some off.toNat else none

/-- The offset from BASE of a host bus address (R30, assumption log 3). -/
def offsetOfAddress (addr : Nat) : Int := (addr : Int) - (Config.base : Int)

/-- MemRead of `width` bytes at BASE + off: one byte comes back to the host and no element of the unit changes; any other
width is refused; an address outside the window is not the unit's (R30, R33, R37). -/
def memRead (off : Int) (width : Nat) (s : State) : Host.Outcome State Fault Refusal :=
  if width ≠ 1 then .refused .accessWidth
  else
    match windowOffset off with
    | none => .fault .outsideWindow
    | some k => .next { s with hostRead := some (windowByte k s) }

/-- MemWrite of one byte at offset k of the window: the latches, and at CMD3 the issue of the word they then hold; every
other offset ignores the write (R34). The latch is written even where the word is dropped (assumption log 5). -/
def writeWindow (k : Nat) (v : Byte) (s : State) : Host.Outcome State Fault Refusal :=
  match k with
  | 0x00 => .next (setLatches { s.cmdl with l0 := v } s)
  | 0x01 => .next (setLatches { s.cmdl with l1 := v } s)
  | 0x02 => .next (setLatches { s.cmdl with l2 := v } s)
  | 0x03 => issue (latchedWord { s.cmdl with l3 := v }) (setLatches { s.cmdl with l3 := v } s)
  | _ => .next s

/-- MemWrite of the given bytes at BASE + off: one byte reaches the window; any other width is refused; an address outside
the window is not the unit's (R30, R34, R37). -/
def memWrite (off : Int) (bytes : List Byte) (s : State) : Host.Outcome State Fault Refusal :=
  match bytes with
  | [v] =>
    match windowOffset off with
    | none => .fault .outsideWindow
    | some k => writeWindow k v s
  | _ => .refused .accessWidth

/-- MemRead at an absolute host address (R33). -/
def memReadAt (addr width : Nat) (s : State) : Host.Outcome State Fault Refusal := memRead (offsetOfAddress addr) width s

/-- MemWrite at an absolute host address (R34). -/
def memWriteAt (addr : Nat) (bytes : List Byte) (s : State) : Host.Outcome State Fault Refusal :=
  memWrite (offsetOfAddress addr) bytes s

/-- The HOST agent's program step: latch P[hpc], issue it, hpc <- hpc + 1 (R88). The latches and hpc move even where the
word faults (assumption log 5). -/
def hostStep (s : State) : Host.Outcome State Fault Refusal :=
  match s.prog[s.hpc]? with
  | some w => onNext (issue w (setLatches (latchesOf w) s)) bumpHpc
  | none => .next s

/-- One step of an enabled agent (R6). -/
def agentStep (a : Agent) (s : State) : Host.Outcome State Fault Refusal :=
  match a with
  | .host => hostStep s
  | .rawStep => .next (rawStep s)
  | .cmEvent => .next (cmEvent s)
  | .isrOvf => .next (isrOvf s)
  | .isrCm => .next (isrCm s)
  | .sleeper => .next (sleeperStep s)
  | .pwmTick p => .next (pwmTick p s)

/-- A turn of an agent: its step where it is enabled; it holds where it is not (R9, R57, R89, assumption log 2). -/
def agentTurn (a : Agent) (s : State) : Host.Outcome State Fault Refusal :=
  if agentEnabled a s then agentStep a s else .next s

/-- What one event does (R40, R89, R96). -/
def runEvent (e : Event) (s : State) : Host.Outcome State Fault Refusal :=
  match e with
  | .agent a => agentTurn a s
  | .busRead off width => memRead off width s
  | .busWrite off bytes => memWrite off bytes s
  | .reset => .next (resetUnit s)

/-- The event that happens next: the first one the schedule holds, else the agent the free choice names (R89, assumption
log 1). -/
def chosen (s : State) : Event :=
  match s.sched with
  | e :: _ => e
  | [] => .agent (Config.schedule s.picks)

/-- The state with that choice used up. -/
def consume (s : State) : State :=
  match s.sched with
  | _ :: rest => { s with sched := rest }
  | [] => { s with picks := s.picks + 1 }

/-- The state in which the very next event is the HOST agent issuing w: w at index hpc of the program, HOST enabled, and
HOST next in the schedule (assumption log 10). -/
def loadNextWord (w : Word) (s : State) : State :=
  { s with
    prog := placeWord s.prog s.hpc w, busy := false, fault := false, sched := .agent .host :: s.sched }

end Sys2Proof.Machine
end

