-- ==== Sys2Proof/Machine/Step.lean ====
section
/-! DEFINITION. One step of the machine: the next event of the one total order (20_memory.md R40, 60_exceptions.md R89). -/

namespace Sys2Proof.Machine

/-- One step: the chosen event, on the state with the choice used up. -/
def step (s : State) : Host.Outcome State Fault Refusal := runEvent (chosen s) (consume s)

/-- s with the instruction whose bits are w stored where the next step issues it (assumption log 10). -/
def State.withFetchWord (s : State) (nbits w : Nat) : State := loadNextWord (tableWord nbits w) s

end Sys2Proof.Machine
end

