-- ==== Sys2Proof/Machine/Assembler.lean ====
section
/-! DEFINITION. The assembler syntax of 30_encoding.md R51 and the pseudo-instruction of R52: lines as data, their command
words, and the reading of a line of text. -/

namespace Sys2Proof.Machine

/-- The three spellings of a pin operand (R51). -/
inductive AsmPin where
  /-- `D<n>`. -/
  | digital (n : Nat)
  /-- `A<k>`. -/
  | analog (k : Nat)
  /-- A decimal or `0x` number. -/
  | number (n : Nat)
deriving DecidableEq, Repr

/-- A line of assembler (R51). `pwmEnable` without a duty is the pseudo-instruction of R52. -/
inductive AsmLine where
  | clkInit
  | clkMs
  | clkUs
  | sleepMs (dur : Nat)
  | sleepUs (dur : Nat)
  | pwmEnable (pin : AsmPin) (duty : Option Nat)
  | pwmSetDuty (pin : AsmPin) (duty : Nat)
  | pwmDisable (pin : AsmPin)
  | pwmGetDuty (pin : AsmPin)
  | irqOff
  | irqOn
  /-- `.cmd <word>`: the word as written. -/
  | cmd (word : Nat)
deriving DecidableEq, Repr

/-- The pin identifier of an operand; none where it is outside its range (R11, R51). A pin that fits but is not PWM-capable
is not rejected here (R51). -/
def asmPinValue (p : AsmPin) : Option Nat :=
  match p with
  | .digital n => if isLogicalPin n then some n else none
  | .analog k => if k ≤ 5 then some (analogPin k) else none
  | .number n => if pinFits n then some n else none

/-- The command of a line; none where an operand is outside its field, or for `.cmd` (R51, R52). -/
def asmInstr (l : AsmLine) : Option Instr :=
  match l with
  | .clkInit => some .clkInit
  | .clkMs => some .msRead
  | .clkUs => some .usRead
  | .sleepMs dur => if durFits dur then some (.sleepMs dur) else none
  | .sleepUs dur => if durFits dur then some (.sleepUs dur) else none
  | .pwmEnable pin none => (asmPinValue pin).map fun n => .pwmEnable n 0
  | .pwmEnable pin (some duty) => if dutyFits duty then (asmPinValue pin).map fun n => .pwmEnable n duty else none
  | .pwmSetDuty pin duty => if dutyFits duty then (asmPinValue pin).map fun n => .pwmSetDuty n duty else none
  | .pwmDisable pin => (asmPinValue pin).map .pwmDisable
  | .pwmGetDuty pin => (asmPinValue pin).map .pwmGetDuty
  | .irqOff => some .irqOff
  | .irqOn => some .irqOn
  | .cmd _ => none

/-- The word of a line; none where the assembler rejects it (R51). -/
def assemble (l : AsmLine) : Option Word :=
  match l with
  | .cmd word => if word < 2 ^ 32 then some (BitVec.ofNat 32 word) else none
  | other => (asmInstr other).map encode

/-- The value of a digit in base 10 or 16; both cases of a hexadecimal digit are read (assumption log 13). -/
def digitValue (base : Nat) (c : Char) : Option Nat :=
  let v :=
    if '0'.toNat ≤ c.toNat ∧ c.toNat ≤ '9'.toNat then c.toNat - '0'.toNat
    else if 'a'.toNat ≤ c.toNat ∧ c.toNat ≤ 'f'.toNat then c.toNat - 'a'.toNat + 10
    else if 'A'.toNat ≤ c.toNat ∧ c.toNat ≤ 'F'.toNat then c.toNat - 'A'.toNat + 10
    else base
  if v < base then some v else none

/-- Digits read onto a value already read. -/
def readDigits (base : Nat) (acc : Nat) : List Char → Option Nat
  | [] => some acc
  | c :: rest =>
    match digitValue base c with
    | some v => readDigits base (acc * base + v) rest
    | none => none

/-- A decimal or `0x` number of at least one digit (R51). -/
def readNumber (cs : List Char) : Option Nat :=
  match cs with
  | [] => none
  | ['0', 'x'] => none
  | '0' :: 'x' :: digits => readDigits 16 0 digits
  | digits => readDigits 10 0 digits

/-- A pin operand (R51): the n of `D<n>` and the k of `A<k>` are decimal. -/
def readPin (cs : List Char) : Option AsmPin :=
  match cs with
  | 'D' :: c :: rest => (readDigits 10 0 (c :: rest)).map .digital
  | 'A' :: c :: rest => (readDigits 10 0 (c :: rest)).map .analog
  | other => (readNumber other).map .number

/-- The operands of a line, separated by commas (R51). -/
def splitOperands : List Char → List (List Char)
  | [] => [[]]
  | c :: rest =>
    match splitOperands rest with
    | [] => [[c]]
    | first :: more => if c = ',' then [] :: first :: more else (c :: first) :: more

/-- The mnemonics of R51. -/
inductive Mnemonic where
  | clkInit | clkMs | clkUs | sleepMs | sleepUs | pwmEnable | pwmSetDuty | pwmDisable | pwmGetDuty | irqOff | irqOn | cmd
deriving DecidableEq, Repr

/-- The spelling of each mnemonic, in the order of R51. -/
def mnemonicTable : List (List Char × Mnemonic) :=
  [ ("clk.init".toList, .clkInit), ("clk.ms".toList, .clkMs), ("clk.us".toList, .clkUs),
    ("sleep.ms".toList, .sleepMs), ("sleep.us".toList, .sleepUs),
    ("pwm.enable".toList, .pwmEnable), ("pwm.setduty".toList, .pwmSetDuty),
    ("pwm.disable".toList, .pwmDisable), ("pwm.getduty".toList, .pwmGetDuty),
    ("irq.off".toList, .irqOff), ("irq.on".toList, .irqOn), (".cmd".toList, .cmd) ]

/-- The mnemonic a piece of text spells (R51). -/
def readMnemonic (cs : List Char) : Option Mnemonic :=
  (mnemonicTable.find? fun row => row.1 == cs).map Prod.snd

/-- The line a mnemonic and its operands make (R51, R52). -/
def lineOf (m : Mnemonic) (operands : List (List Char)) : Option AsmLine :=
  match m, operands with
  | .clkInit, [] => some .clkInit
  | .clkMs, [] => some .clkMs
  | .clkUs, [] => some .clkUs
  | .sleepMs, [d] => (readNumber d).map .sleepMs
  | .sleepUs, [d] => (readNumber d).map .sleepUs
  | .pwmEnable, [p] => (readPin p).map fun q => .pwmEnable q none
  | .pwmEnable, [p, d] => (readPin p).bind fun q => (readNumber d).map fun n => .pwmEnable q (some n)
  | .pwmSetDuty, [p, d] => (readPin p).bind fun q => (readNumber d).map fun n => .pwmSetDuty q n
  | .pwmDisable, [p] => (readPin p).map .pwmDisable
  | .pwmGetDuty, [p] => (readPin p).map .pwmGetDuty
  | .irqOff, [] => some .irqOff
  | .irqOn, [] => some .irqOn
  | .cmd, [w] => (readNumber w).map .cmd
  | _, _ => none

/-- A piece of text without the blanks before and after it. -/
def trimBlanks (cs : List Char) : List Char :=
  ((cs.dropWhile (· = ' ')).reverse.dropWhile (· = ' ')).reverse

/-- A line of text: one command (R51). The model's choice: blanks are free around the mnemonic and around each operand, and a
blank inside an operand makes the line no command (assumption log 13). -/
def parseLine (cs : List Char) : Option AsmLine :=
  let line := cs.dropWhile (· = ' ')
  let operands := trimBlanks (line.dropWhile (· ≠ ' '))
  (readMnemonic (line.takeWhile (· ≠ ' '))).bind fun m =>
    lineOf m (if operands = [] then [] else (splitOperands operands).map trimBlanks)

/-- The word of a line of text; none where it is no line or the assembler rejects an operand (R51). -/
def assembleText (cs : List Char) : Option Word := (parseLine cs).bind assemble

end Sys2Proof.Machine
end

