-- ==== Sys2Proof/Safety.lean ====
section
/-! DEFINITION. What counts as a safe run: the invariants of 10_state.md R27, runs, their end and
their final state (60_exceptions.md R90), paths of steps with a running count, and weak fairness (R89). -/

namespace Sys2Proof.Machine

/-- I1 of R27: a Disabled channel has duty 0. -/
abbrev DisabledHasNoDuty (s : State) : Prop := ∀ ch : Channel, channelOn s ch = false → chanGet s.buf ch = 0

/-- I2 of R27: a pair with an Enabled channel holds the shared group. -/
abbrev EnabledHasSharedGroup (s : State) : Prop :=
  ∀ ch : Channel, channelOn s ch = true →
    modeWgm (pairGet s.mode ch.pair) = Config.wgmPwm ∧ modeCs (pairGet s.mode ch.pair) = Config.csPwm

/-- I3 of R27: bit 5 of every MODE register is 0. -/
abbrev ModeBit5Clear (s : State) : Prop := ∀ p : Pair, (pairGet s.mode p).getLsbD 5 = false

/-- I4 of R27: a sleep in progress has interrupts enabled and the clock running. -/
abbrev SleepHasClock (s : State) : Prop := s.busy = true → s.gie = true ∧ s.run = true

/-- I5 of R27: FCODE = 0 exactly when FAULT = 0. -/
abbrev FaultHasCode (s : State) : Prop := s.fcode = 0 ↔ s.fault = false

/-- The invariants I1 to I5 of R27. -/
structure ReachableInv (s : State) : Prop where
  disabledHasNoDuty : DisabledHasNoDuty s
  enabledHasSharedGroup : EnabledHasSharedGroup s
  modeBit5Clear : ModeBit5Clear s
  sleepHasClock : SleepHasClock s
  faultHasCode : FaultHasCode s

/-- The legal values of R24, R56, R57 and R75 that R27 does not list: each pair's shared group is all idle or all PWM, a
sleep in progress has a step left to consume, FCODE is one of 0x00..0x07. -/
structure LegalFields (s : State) : Prop where
  sharedGroupIdleOrPwm : ∀ p : Pair,
    (pairGet s.mode p).extractLsb' 0 5 = 0#5 ∨ (pairGet s.mode p).extractLsb' 0 5 = sharedGroup.extractLsb' 0 5
  sleepHasRemaining : s.busy = true → s.slpRem ≠ 0
  fcodeNamed : s.fcode.toNat ≤ 7

/-- The condition hpc = n, BUSY = 0, FAULT = 0 of R90. The first state of a run that meets it is the run's final state:
`EndsAt`. -/
def finished (s : State) : Bool := decide (s.hpc = s.prog.length) && !s.busy && !s.fault

/-- A faulted state: never final (R74, R90). -/
def faulted (s : State) : Bool := s.fault

/-- The chosen event is a turn that agent a takes, being enabled. -/
def takes (a : Agent) (s : State) : Bool := decide (chosen s = .agent a) && agentEnabled a s

/-- The command word the chosen event issues: the HOST agent's next program word, or the latched word of a bus write to
CMD3 (R34, R88). -/
def issuedWord (s : State) : Option Word :=
  match chosen s with
  | .agent .host => if hostEnabled s then s.prog[s.hpc]? else none
  | .busWrite 3 [v] => some (latchedWord { s.cmdl with l3 := v })
  | _ => none

/-- The command the next step executes: an issued word that is neither dropped nor an overrun and is legal (R35, R49). -/
def executed (s : State) : Option Instr :=
  match issuedWord s with
  | some w => if s.fault || s.busy then none else (decode w).toOption
  | none => none

/-- `Path ok weight s n t`: some number of steps lead from s to t, `ok` holds of every state a step leaves, and the weights
of those states add up to n. -/
inductive Path (ok : State → Prop) (weight : State → Nat) : State → Nat → State → Prop where
  | refl (s : State) : Path ok weight s 0 s
  | head {s u t : State} {n : Nat} :
      ok s → step s = .next u → Path ok weight u n t → Path ok weight s (weight s + n) t

/-- An unbounded run r under the schedule e: at each moment the scheduled event answers the next state (R89). -/
def IsRun (e : Nat → Event) (r : Nat → State) : Prop := ∀ n, runEvent (e n) (r n) = .next (r (n + 1))

/-- A run of the program P, from any state that holds it (R90). -/
def IsRunOf (P : List Word) (e : Nat → Event) (r : Nat → State) : Prop := IsRun e r ∧ (r 0).prog = P

/-- The run ends at moment n: the first one whose state is finished (R90). The agents may go on after it. -/
def EndsAt (r : Nat → State) (n : Nat) : Prop := finished (r n) = true ∧ ∀ m, m < n → finished (r m) = false

/-- The final state of a run: the one it ends at, which claims about a program's end state are about (R90). -/
def IsFinalState (r : Nat → State) (t : State) : Prop := ∃ n, EndsAt r n ∧ t = r n

/-- The run ends nowhere (R90). -/
def HasNoFinalState (r : Nat → State) : Prop := ∀ t, ¬ IsFinalState r t

/-- Weak fairness of a schedule on a run: an agent that stays enabled from some step on eventually steps (R89, assumption
log 11). -/
def WeaklyFair (e : Nat → Event) (r : Nat → State) : Prop :=
  ∀ (a : Agent) (n : Nat), (∀ m, n ≤ m → agentEnabled a (r m) = true) → ∃ m, n ≤ m ∧ e m = .agent a

end Sys2Proof.Machine
end

