-- ==== Sys2Proof/Certificates/Slice0/Obligations.lean ====
section
/-! DEFINITION. The statements about the unit, for the provers. Each docstring names the rule of spec/ it formalises, or
the assumption log entry where it rests on a choice of the model. -/

open Sys2Proof Sys2Proof.Machine

/-! ### Encoding (30_encoding.md) -/

/-- Words written out in 95_test_vectors.md L2-E (one of each family and one of each illegal kind) decode as that table
says. -/
def Obligations.VectorWordsDecodeAsTabled : Prop :=
  decode 0x10000000 = .ok .clkInit ∧ decode 0x20000000 = .ok .msRead ∧ decode 0x30000000 = .ok .usRead ∧
  decode 0x40FFFFFF = .ok (.sleepMs 16777215) ∧ decode 0x5000000A = .ok (.sleepUs 10) ∧
  decode 0x600900C8 = .ok (.pwmEnable 9 200) ∧ decode 0x7009012C = .ok (.pwmSetDuty 9 300) ∧
  decode 0x800A0000 = .ok (.pwmDisable 10) ∧ decode 0x90090000 = .ok (.pwmGetDuty 9) ∧
  decode 0xA0000000 = .ok .irqOff ∧ decode 0xB0000000 = .ok .irqOn ∧
  (∃ e, decode 0x00000000 = .error e) ∧ (∃ e, decode 0x10000001 = .error e) ∧
  (∃ e, decode 0x4F000001 = .error e) ∧ (∃ e, decode 0x90090080 = .error e) ∧ (∃ e, decode 0xC0000000 = .error e)

/-- R48: the opcode map. A word that meets a row's mask and match is that row's command, with the operand fields of its
format; a word that meets none is rejected; no word meets two rows. -/
def Obligations.DecodeFollowsTheOpcodeMap : Prop :=
  (∀ w : Word,
    (w &&& 0xFFFFFFFF = 0x10000000 → decode w = .ok .clkInit) ∧
    (w &&& 0xFFFFFFFF = 0x20000000 → decode w = .ok .msRead) ∧
    (w &&& 0xFFFFFFFF = 0x30000000 → decode w = .ok .usRead) ∧
    (w &&& 0xFF000000 = 0x40000000 → decode w = .ok (.sleepMs (w.toNat % 2 ^ 24))) ∧
    (w &&& 0xFF000000 = 0x50000000 → decode w = .ok (.sleepUs (w.toNat % 2 ^ 24))) ∧
    (w &&& 0xFF000000 = 0x60000000 →
      decode w = .ok (.pwmEnable (w.toNat / 2 ^ 16 % 2 ^ 8) (w.toNat % 2 ^ 16))) ∧
    (w &&& 0xFF000000 = 0x70000000 →
      decode w = .ok (.pwmSetDuty (w.toNat / 2 ^ 16 % 2 ^ 8) (w.toNat % 2 ^ 16))) ∧
    (w &&& 0xFF00FFFF = 0x80000000 → decode w = .ok (.pwmDisable (w.toNat / 2 ^ 16 % 2 ^ 8))) ∧
    (w &&& 0xFF00FFFF = 0x90000000 → decode w = .ok (.pwmGetDuty (w.toNat / 2 ^ 16 % 2 ^ 8))) ∧
    (w &&& 0xFFFFFFFF = 0xA0000000 → decode w = .ok .irqOff) ∧
    (w &&& 0xFFFFFFFF = 0xB0000000 → decode w = .ok .irqOn) ∧
    ((∀ r ∈ opcodeMap, w &&& r.mask ≠ r.pattern) → ∃ e, decode w = .error e)) ∧
  (∀ (w : Word) (r q : OpcodeRow), r ∈ opcodeMap → q ∈ opcodeMap →
    w &&& r.mask = r.pattern → w &&& q.mask = q.pattern → r = q)

/-- R50: a word is illegal exactly when its OP is 0x0 or 0xC..0xF, its RSV is not 0, or it has a non-zero must-be-zero bit
of format N (OP 0x1, 0x2, 0x3, 0xA, 0xB) or Q (OP 0x8, 0x9); issuing one latches ILLEGAL_CMD and does nothing else; the
all-zero word is illegal. -/
def Obligations.IllegalWordsLatchIllegalCmd : Prop :=
  (∀ w : Word, (∃ e, decode w = .error e) ↔
    (w.toNat / 2 ^ 28 = 0x0 ∨ 0xC ≤ w.toNat / 2 ^ 28) ∨ w.toNat / 2 ^ 24 % 2 ^ 4 ≠ 0 ∨
    (w.toNat / 2 ^ 28 ∈ [0x1, 0x2, 0x3, 0xA, 0xB] ∧ w.toNat % 2 ^ 24 ≠ 0) ∨
    (w.toNat / 2 ^ 28 ∈ [0x8, 0x9] ∧ w.toNat % 2 ^ 16 ≠ 0)) ∧
  (∀ (w : Word) (e : DecodeError) (s : State), decode w = .error e → s.fault = false → s.busy = false →
    issue w s = .next { s with fault := true, fcode := 0x01 }) ∧
  (∃ e, decode 0x00000000 = .error e)

/-- Decoding the encoding of any well-formed command, every operand at every value of its field, gives the command back.
-/
def Obligations.DecodeOfEncodeIsTheCommand : Prop :=
  ∀ i : Instr, i.WellFormed → decode (encode i) = .ok i

/-- Encoding what a word decodes to gives the word back, and the command is well formed: no bit of a legal word is dropped
and no two words mean the same command. -/
def Obligations.EncodeOfDecodeIsTheWord : Prop :=
  ∀ (w : Word) (i : Instr), decode w = .ok i → i.WellFormed ∧ encode i = w

/-- R36, a choice the spec takes from general knowledge: byte k of the command word is bits [8k+7:8k], whether the word is
read from bytes or latched by the host, and byte k of RESULT stands at offset 0x04+k. -/
def Obligations.BytesAreLittleEndian : Prop :=
  (∀ (w : Word) (rest : List Byte),
    decodeBytes (BitVec.ofNat 8 w.toNat :: BitVec.ofNat 8 (w.toNat / 2 ^ 8) :: BitVec.ofNat 8 (w.toNat / 2 ^ 16) ::
      BitVec.ofNat 8 (w.toNat / 2 ^ 24) :: rest) = (decode w).map fun i => (i, rest)) ∧
  (∀ w : Word, latchedWord (latchesOf w) = w) ∧
  (∀ (s : State) (k : Nat), k < 4 → windowByte (0x04 + k) s = BitVec.ofNat 8 (s.result.toNat / 2 ^ (8 * k)))

/-- R51, R52: the words of assembler lines as data, the operands that are rejected, the pseudo-instruction, and the text
that spells each line. How numbers are spelled beyond the numerals below, and the blanks the text may have beyond the one
after the mnemonic and the one after the comma, is assumption log 13 and not stated. -/
def Obligations.AssemblerGivesTheTabledWords : Prop :=
  (assemble .clkInit = some 0x10000000 ∧ assemble .clkMs = some 0x20000000 ∧ assemble .clkUs = some 0x30000000 ∧
    assemble .irqOff = some 0xA0000000 ∧ assemble .irqOn = some 0xB0000000) ∧
  (∀ dur, dur ≤ 16777215 →
    assemble (.sleepMs dur) = some (BitVec.ofNat 32 (0x40000000 + dur)) ∧
    assemble (.sleepUs dur) = some (BitVec.ofNat 32 (0x50000000 + dur))) ∧
  (∀ dur, 16777215 < dur → assemble (.sleepMs dur) = none ∧ assemble (.sleepUs dur) = none) ∧
  (∀ (p : AsmPin) (n : Nat), asmPinValue p = some n →
    (∀ duty, duty ≤ 65535 →
      assemble (.pwmEnable p (some duty)) = some (BitVec.ofNat 32 (0x60000000 + n * 2 ^ 16 + duty)) ∧
      assemble (.pwmSetDuty p duty) = some (BitVec.ofNat 32 (0x70000000 + n * 2 ^ 16 + duty))) ∧
    assemble (.pwmDisable p) = some (BitVec.ofNat 32 (0x80000000 + n * 2 ^ 16)) ∧
    assemble (.pwmGetDuty p) = some (BitVec.ofNat 32 (0x90000000 + n * 2 ^ 16))) ∧
  (∀ (p : AsmPin), asmPinValue p = none →
    (∀ duty : Option Nat, assemble (.pwmEnable p duty) = none) ∧ (∀ duty, assemble (.pwmSetDuty p duty) = none) ∧
    assemble (.pwmDisable p) = none ∧ assemble (.pwmGetDuty p) = none) ∧
  (∀ (p : AsmPin) (duty : Nat), 65535 < duty →
    assemble (.pwmEnable p (some duty)) = none ∧ assemble (.pwmSetDuty p duty) = none) ∧
  (∀ p : AsmPin, assemble (.pwmEnable p none) = assemble (.pwmEnable p (some 0))) ∧
  (∀ n, asmPinValue (.digital n) = if n ≤ 19 then some n else none) ∧
  (∀ k, asmPinValue (.analog k) = if k ≤ 5 then some (14 + k) else none) ∧
  (∀ n, asmPinValue (.number n) = if n ≤ 255 then some n else none) ∧
  (∀ n, assemble (.cmd n) = if n < 2 ^ 32 then some (BitVec.ofNat 32 n) else none) ∧
  (parseLine "clk.init".toList = some .clkInit ∧ parseLine "clk.ms".toList = some .clkMs ∧
    parseLine "clk.us".toList = some .clkUs ∧ parseLine "irq.off".toList = some .irqOff ∧
    parseLine "irq.on".toList = some .irqOn) ∧
  (∀ (d : List Char) (n : Nat), readNumber d = some n →
    parseLine ("sleep.ms ".toList ++ d) = some (.sleepMs n) ∧
    parseLine ("sleep.us ".toList ++ d) = some (.sleepUs n) ∧
    parseLine (".cmd ".toList ++ d) = some (.cmd n)) ∧
  (∀ (p : List Char) (q : AsmPin), readPin p = some q →
    parseLine ("pwm.enable ".toList ++ p) = some (.pwmEnable q none) ∧
    parseLine ("pwm.disable ".toList ++ p) = some (.pwmDisable q) ∧
    parseLine ("pwm.getduty ".toList ++ p) = some (.pwmGetDuty q) ∧
    (∀ (d : List Char) (n : Nat), readNumber d = some n →
      parseLine ("pwm.enable ".toList ++ p ++ ", ".toList ++ d) = some (.pwmEnable q (some n)) ∧
      parseLine ("pwm.setduty ".toList ++ p ++ ", ".toList ++ d) = some (.pwmSetDuty q n))) ∧
  (∀ n : Nat, readNumber (Nat.toDigits 10 n) = some n ∧ readNumber ('0' :: 'x' :: Nat.toDigits 16 n) = some n ∧
    readPin ('D' :: Nat.toDigits 10 n) = some (.digital n) ∧ readPin ('A' :: Nat.toDigits 10 n) = some (.analog n) ∧
    readPin (Nat.toDigits 10 n) = some (.number n) ∧ readPin ('0' :: 'x' :: Nat.toDigits 16 n) = some (.number n)) ∧
  (∀ cs : List Char, assembleText cs = (parseLine cs).bind assemble)

/-- R12, R13. The rows of the pin map other than D9's, which the spec presumes (assumption log 8), are a premise, as R13
asks: under it the six pins have the channel indices 0 to 5 and no other identifier has a channel. D9's row and the formula
of the index need no premise. No other statement depends on a row. -/
def Obligations.PinMapHasExactlyTheSixPins : Prop :=
  pwmPinMap 9 = some ⟨.p1, .A⟩ ∧
  (∀ ch : Channel, channelIndex ch = 2 * pairIndex ch.pair + (if ch.side = .B then 1 else 0)) ∧
  (IsPinMapOfR13 pwmPinMap →
    (∀ pin : Nat, pwmPinMap pin = none ↔ pin ∉ [6, 5, 9, 10, 11, 3]) ∧
    (pwmPinMap 6).map channelIndex = some 0 ∧ (pwmPinMap 5).map channelIndex = some 1 ∧
    (pwmPinMap 9).map channelIndex = some 2 ∧ (pwmPinMap 10).map channelIndex = some 3 ∧
    (pwmPinMap 11).map channelIndex = some 4 ∧ (pwmPinMap 3).map channelIndex = some 5)

/-! ### Steps, issue and the host (20_memory.md, 60_exceptions.md) -/

/-- One step is the next event of the schedule, with the choice used up; where the schedule holds none, an agent's turn
chosen freely (R40, R89; the form of the schedule is assumption log 1). -/
def Obligations.StepIsTheChosenEvent : Prop :=
  (∀ (s : State) (e : Event) (rest : List Event), s.sched = e :: rest →
    chosen s = e ∧ consume s = { s with sched := rest } ∧ step s = runEvent e { s with sched := rest }) ∧
  (∀ s : State, s.sched = [] →
    chosen s = .agent (Config.schedule s.picks) ∧ consume s = { s with picks := s.picks + 1 } ∧
    step s = runEvent (.agent (Config.schedule s.picks)) { s with picks := s.picks + 1 })

/-- R88: when HOST is next and enabled, the step latches P[hpc], runs the command it decodes to and advances hpc; an illegal
word latches ILLEGAL_CMD instead. That CMDL and hpc keep these writes also where the word is illegal or its command faults is
the model's reading, assumption log 5 (R74 says that every other element keeps its value). When HOST is next and not
enabled, it holds and only the schedule moves: assumption log 2. -/
def Obligations.HostStepRunsTheDecodedCommand : Prop :=
  (∀ (s : State) (w : Word) (i : Instr),
    chosen s = .agent .host → s.prog[s.hpc]? = some w → s.busy = false → s.fault = false → decode w = .ok i →
    step s = onNext
      (exec i { consume s with
        cmdl := ⟨w.extractLsb' 0 8, w.extractLsb' 8 8, w.extractLsb' 16 8, w.extractLsb' 24 8⟩ })
      (fun t => { t with hpc := t.hpc + 1 })) ∧
  (∀ (s : State) (w : Word) (e : DecodeError),
    chosen s = .agent .host → s.prog[s.hpc]? = some w → s.busy = false → s.fault = false → decode w = .error e →
    step s = .next { consume s with
      cmdl := ⟨w.extractLsb' 0 8, w.extractLsb' 8 8, w.extractLsb' 16 8, w.extractLsb' 24 8⟩,
      fault := true, fcode := 0x01, hpc := s.hpc + 1 }) ∧
  (∀ s : State, chosen s = .agent .host → s.prog.length ≤ s.hpc ∨ s.busy = true ∨ s.fault = true →
    step s = .next (consume s))

/-- R35, R75, R76: what an issued word does, in the order of the checks: dropped, BUSY_OVERRUN, ILLEGAL_CMD, BAD_PIN, the
command's own check; each with its code, and nothing else written. -/
def Obligations.IssueChecksInOrder : Prop :=
  (∀ (w : Word) (s : State), s.fault = true → issue w s = .next s) ∧
  (∀ (w : Word) (s : State), s.fault = false → s.busy = true →
    issue w s = .next { s with fault := true, fcode := 0x07 }) ∧
  (∀ (w : Word) (e : DecodeError) (s : State), s.fault = false → s.busy = false → decode w = .error e →
    issue w s = .next { s with fault := true, fcode := 0x01 }) ∧
  (∀ (w : Word) (i : Instr) (s : State), s.fault = false → s.busy = false → decode w = .ok i →
    issue w s = exec i s) ∧
  (∀ (pin duty : Nat) (s : State), pwmPinMap pin = none →
    exec (.pwmEnable pin duty) s = .next { s with fault := true, fcode := 0x02 } ∧
    exec (.pwmSetDuty pin duty) s = .next { s with fault := true, fcode := 0x02 } ∧
    exec (.pwmDisable pin) s = .next { s with fault := true, fcode := 0x02 } ∧
    exec (.pwmGetDuty pin) s = .next { s with fault := true, fcode := 0x02 }) ∧
  (∀ (pin duty : Nat) (ch : Channel) (s : State), pwmPinMap pin = some ch → channelOn s ch = false →
    exec (.pwmSetDuty pin duty) s = .next { s with fault := true, fcode := 0x03 }) ∧
  (∀ (dur : Nat) (s : State), s.gie = false →
    exec (.sleepMs dur) s = .next { s with fault := true, fcode := 0x04 }) ∧
  (∀ (dur : Nat) (s : State), s.gie = true → s.run = false →
    exec (.sleepMs dur) s = .next { s with fault := true, fcode := 0x05 }) ∧
  (∀ s : State, s.run = true → exec .clkInit s = .next { s with fault := true, fcode := 0x06 })

/-- R49: executing is total: every word issued in any state answers a next state, and so does every command. -/
def Obligations.EveryIssuedWordCompletes : Prop :=
  (∀ (w : Word) (s : State), ∃ t, issue w s = .next t) ∧ (∀ (i : Instr) (s : State), ∃ t, exec i s = .next t)

/-- R37 for the widths, R30 for the window (the fault outside it is the model's choice, assumption log 4): a step stops at
every bus access that is not one byte wide and at every one outside the window, each by its own name, and nowhere else. -/
def Obligations.StepStopsExactlyAtForeignBusAccesses : Prop :=
  (∀ (s : State) (off : Int) (width : Nat), chosen s = .busRead off width → width ≠ 1 →
    step s = .refused .accessWidth) ∧
  (∀ (s : State) (off : Int) (bytes : List Byte), chosen s = .busWrite off bytes → bytes.length ≠ 1 →
    step s = .refused .accessWidth) ∧
  (∀ (s : State) (off : Int), chosen s = .busRead off 1 → off < 0 ∨ 32 ≤ off → step s = .fault .outsideWindow) ∧
  (∀ (s : State) (off : Int) (v : Byte), chosen s = .busWrite off [v] → off < 0 ∨ 32 ≤ off →
    step s = .fault .outsideWindow) ∧
  (∀ s : State, (∀ t, step s ≠ .next t) →
    (∃ off width, chosen s = .busRead off width ∧ (width ≠ 1 ∨ off < 0 ∨ 32 ≤ off)) ∨
    (∃ off bytes, chosen s = .busWrite off bytes ∧ (bytes.length ≠ 1 ∨ off < 0 ∨ 32 ≤ off)))

/-- The window is the 32 addresses from BASE, whatever BASE is (R30). That the host's addresses are unbounded, so that
BASE + 31 does not wrap and an address below BASE has no offset, is the model's choice: assumption log 3. -/
def Obligations.WindowStandsAtBase : Prop :=
  (∀ k : Nat, k < 32 → windowOffset (offsetOfAddress (Config.base + k)) = some k) ∧
  (∀ addr : Nat, addr < Config.base ∨ Config.base + 32 ≤ addr → windowOffset (offsetOfAddress addr) = none)

/-- R33: a one-byte read of the window returns the tabled byte of each offset and changes no element of the unit. -/
def Obligations.BusReadReturnsTheRegister : Prop :=
  ∀ (s : State) (k : Nat), k < 32 → chosen s = .busRead k 1 →
    step s = .next { consume s with hostRead := some (
      [0x00, 0x00, 0x00, 0x00,
       BitVec.ofNat 8 s.result.toNat, BitVec.ofNat 8 (s.result.toNat / 2 ^ 8),
       BitVec.ofNat 8 (s.result.toNat / 2 ^ 16), BitVec.ofNat 8 (s.result.toNat / 2 ^ 24),
       BitVec.ofNat 8 (s.busy.toNat + 2 * s.fault.toNat + 4 * s.gie.toNat), s.fcode,
       BitVec.ofNat 8 (s.run.toNat + 2 * s.tieOvf.toNat + 4 * s.tieCm.toNat + 8 * s.ovfPend.toNat
         + 16 * s.cmPend.toNat), s.raw,
       s.mode.p0, s.mode.p1, s.mode.p2, 0x00,
       s.buf.c0A, s.buf.c0B, s.buf.c1A, s.buf.c1B, s.buf.c2A, s.buf.c2B,
       s.pcnt.p0, s.pcnt.p1, s.pcnt.p2].getD k 0x00) }

/-- R34: a one-byte write reaches a latch at CMD0..CMD2, latches at CMD3 and issues there with whatever the other latches
hold, and is ignored at every other offset: what a write reaches by itself are the latches, and all else it does is what
`issue` does. That CMDL[3] keeps the new byte also where the word is dropped or faults is the model's reading, assumption
log 5 (R76 says "no change"). -/
def Obligations.BusWriteReachesOnlyTheLatches : Prop :=
  ∀ (s : State) (v : Byte),
    (chosen s = .busWrite 0 [v] →
      step s = .next { consume s with cmdl := ⟨v, s.cmdl.l1, s.cmdl.l2, s.cmdl.l3⟩ }) ∧
    (chosen s = .busWrite 1 [v] →
      step s = .next { consume s with cmdl := ⟨s.cmdl.l0, v, s.cmdl.l2, s.cmdl.l3⟩ }) ∧
    (chosen s = .busWrite 2 [v] →
      step s = .next { consume s with cmdl := ⟨s.cmdl.l0, s.cmdl.l1, v, s.cmdl.l3⟩ }) ∧
    (chosen s = .busWrite 3 [v] →
      step s = issue (v ++ s.cmdl.l2 ++ s.cmdl.l1 ++ s.cmdl.l0)
        { consume s with cmdl := ⟨s.cmdl.l0, s.cmdl.l1, s.cmdl.l2, v⟩ }) ∧
    (∀ off : Int, 4 ≤ off → off < 32 → chosen s = .busWrite off [v] → step s = .next (consume s))

/-- R29, R31, R32: TICK, MS, ACT, CMDL, SLP_START, SLP_REM and hpc reach no byte of the window: two states that differ in
these alone read alike at every offset. -/
def Obligations.HiddenElementsReachNoBusByte : Prop :=
  ∀ (s : State) (tick ms slpStart : BitVec 32) (slpRem : BitVec 24) (act : ChanFile Byte) (cmdl : CmdLatches)
    (hpc k : Nat),
    windowByte k { s with
      tick := tick, ms := ms, slpStart := slpStart, slpRem := slpRem, act := act, cmdl := cmdl, hpc := hpc } =
    windowByte k s

/-! ### Clock commands (40_clock.md) -/

/-- R53: CLK_INIT. -/
def Obligations.ClkInitStartsTheClock : Prop :=
  encode .clkInit = 0x10000000 ∧
  ∀ s : State,
    (s.run = false → exec .clkInit s = .next { s with
      tick := 0, ms := 0, raw := 0, ovfPend := false, cmPend := false,
      run := true, tieOvf := true, tieCm := true, gie := true }) ∧
    (s.run = true → exec .clkInit s = .next { s with fault := true, fcode := 0x06 })

/-- R54: MS_READ. -/
def Obligations.MsReadCapturesMs : Prop :=
  encode .msRead = 0x20000000 ∧ ∀ s : State, exec .msRead s = .next { s with result := s.ms }

/-- R10, R55: US_READ writes RESULT alone, with the snapshot's microseconds. -/
def Obligations.UsReadCapturesTheSnapshot : Prop :=
  encode .usRead = 0x30000000 ∧
  ∀ s : State, exec .usRead s = .next { s with result := usNow s } ∧
    (usNow s).toNat =
      ((s.tick.toNat + (if s.ovfPend = true ∧ s.raw.toNat < Config.pendLowLimit then 1 else 0)) % 2 ^ 32 * 2 ^ 8
        + s.raw.toNat) % 2 ^ 32 * Config.usNum / Config.usDen % 2 ^ 32

/-- R56: SLEEP_MS, for every duration of its field. -/
def Obligations.SleepMsBeginsTheSleep : Prop :=
  ∀ (dur : Nat) (s : State), dur ≤ 16777215 →
    encode (.sleepMs dur) = BitVec.ofNat 32 (0x40000000 + dur) ∧
    (s.gie = false → exec (.sleepMs dur) s = .next { s with fault := true, fcode := 0x04 }) ∧
    (s.gie = true → s.run = false → exec (.sleepMs dur) s = .next { s with fault := true, fcode := 0x05 }) ∧
    (s.gie = true → s.run = true →
      exec (.sleepMs dur) s = .next { s with
        slpStart := usNow s, slpRem := BitVec.ofNat 24 dur, busy := if dur ≠ 0 then true else false })

/-- R57: a SLEEPER turn consumes one step of the sleep when it is enabled. SLP_REM is at least 1 whenever BUSY = 1, as R57
says: that premise is the invariant of LegalFieldsAreKept. When SLEEPER is not enabled the turn holds and only the schedule
moves: assumption log 2. -/
def Obligations.SleeperConsumesOneStep : Prop :=
  ∀ s : State, chosen s = .agent .sleeper →
    (s.busy = true → s.slpRem ≠ 0 → Config.sleepStepUs ≤ (usNow s - s.slpStart).toNat →
      step s = .next { consume s with
        slpRem := s.slpRem - 1, slpStart := s.slpStart + BitVec.ofNat 32 Config.sleepStepUs,
        busy := if s.slpRem - 1 = 0 then false else true }) ∧
    (s.busy = false ∨ (usNow s - s.slpStart).toNat < Config.sleepStepUs → step s = .next (consume s))

/-- R58: SLEEP_US changes nothing, for every duration of its field. -/
def Obligations.SleepUsChangesNothing : Prop :=
  ∀ (dur : Nat) (s : State), dur ≤ 16777215 →
    encode (.sleepUs dur) = BitVec.ofNat 32 (0x50000000 + dur) ∧ exec (.sleepUs dur) s = .next s

/-- R59, first point, an inference of the spec (from R54, R80): along any steps without a CLK_INIT or a reset, the results
of an MS_READ before and one after differ by the number of ISR_CM steps between them, modulo 2^32. -/
def Obligations.MsReadsDifferByTheServices : Prop :=
  ∀ (s t s' t' : State) (n : Nat),
    Path (fun u => chosen u ≠ .reset ∧ executed u ≠ some .clkInit) (fun u => (takes .isrCm u).toNat) s n t →
    exec .msRead s = .next s' → exec .msRead t = .next t' →
    t'.result - s'.result = BitVec.ofNat 32 n

/-- R59, second point, an inference of the spec (from R55, R10, R79, R85), for the parameter values of R5: along any steps
without a CLK_INIT or a reset in whose states OVF_PEND is never 1 with RAW at PEND_LOW_LIMIT, the results of a US_READ
before and one after differ by 4 for each RAWSTEP step between them, modulo 2^32. -/
def Obligations.UsReadsDifferByTheRawSteps : Prop :=
  ∀ (s t s' t' : State) (n : Nat),
    Path (fun u => chosen u ≠ .reset ∧ executed u ≠ some .clkInit ∧
        (u.ovfPend = true → u.raw.toNat < Config.pendLowLimit))
      (fun u => (takes .rawStep u).toNat) s n t →
    (t.ovfPend = true → t.raw.toNat < Config.pendLowLimit) →
    exec .usRead s = .next s' → exec .usRead t = .next t' →
    t'.result - s'.result = BitVec.ofNat 32 (4 * n)

/-- R60, an inference of the spec (from R10, R79): while an overflow is pending and RAW is below PEND_LOW_LIMIT, US_READ
returns what it would return had ISR_OVF already run. -/
def Obligations.PendingOverflowReadsAsServiced : Prop :=
  ∀ s t u : State, s.ovfPend = true → s.raw.toNat < Config.pendLowLimit →
    exec .usRead s = .next t → exec .usRead { s with ovfPend := false, tick := s.tick + 1 } = .next u →
    t.result = u.result

/-- R61, an inference of the spec (from R56, R57): let a SLEEP_MS d, d > 0, issue at microsecond value usNow s and stay in
progress up to the step from t that clears BUSY, with no reset. Then usNow t - usNow s is (d - 1) steps and what was left
at t, modulo 2^32; where those together are fewer than 2^32 microseconds, it is at least d steps. The premise stands in
these terms by assumption log 18. -/
def Obligations.SleepMsIsNotEarly : Prop :=
  ∀ (d n : Nat) (s s' t t' : State), 0 < d → d ≤ 16777215 →
    executed s = some (.sleepMs d) → s.gie = true → s.run = true → step s = .next s' →
    Path (fun u => u.busy = true ∧ chosen u ≠ .reset) (fun _ => 0) s' n t →
    t.busy = true → chosen t ≠ .reset → step t = .next t' → t'.busy = false →
    usNow t - usNow s = BitVec.ofNat 32 ((d - 1) * Config.sleepStepUs) + (usNow t - t.slpStart) ∧
    ((d - 1) * Config.sleepStepUs + (usNow t - t.slpStart).toNat < 2 ^ 32 →
      d * Config.sleepStepUs ≤ (usNow t - usNow s).toNat)

/-- R101, an inference of the spec (from R10, R79, R85), for PEND_LOW_LIMIT = 255: a second overflow while the first is
pending is lost; a pending overflow that is still unserviced when RAW reaches 255 makes US_READ 1020 microseconds lower
than one count earlier. -/
def Obligations.UnservicedOverflowsLoseTicks : Prop :=
  (∀ s : State, chosen s = .agent .rawStep → s.run = true → s.raw = 255 → s.ovfPend = true →
    step s = .next { consume s with raw := 0 }) ∧
  (∀ s : State, chosen s = .agent .rawStep → s.run = true → s.raw = 254 → s.ovfPend = true →
    ∃ t, step s = .next t ∧ usNow t = usNow s - 1020)

/-! ### PWM commands and the period counters (41_pwm.md) -/

/-- R63: PWM_ENABLE, whatever PWM_PIN_MAP is. -/
def Obligations.PwmEnableSetsItsOwnChannel : Prop :=
  (∀ (pin duty : Nat), pin ≤ 255 → duty ≤ 65535 →
    encode (.pwmEnable pin duty) = BitVec.ofNat 32 (0x60000000 + pin * 2 ^ 16 + duty)) ∧
  (∀ (pin duty : Nat) (s : State), pwmPinMap pin = none →
    exec (.pwmEnable pin duty) s = .next { s with fault := true, fcode := 0x02 }) ∧
  (∀ (pin duty : Nat) (ch : Channel) (s : State), pwmPinMap pin = some ch →
    ∃ (mode : PairFile Byte) (buf : ChanFile Byte),
      exec (.pwmEnable pin duty) s = .next { s with mode := mode, buf := buf } ∧
      pairGet mode ch.pair = (pairGet s.mode ch.pair &&& ~~~(0x1F : Byte) |||
        (0#3 ++ Config.wgmPwm ++ Config.csPwm)) ||| (if ch.side = .A then 0x80 else 0x40) ∧
      (∀ p, p ≠ ch.pair → pairGet mode p = pairGet s.mode p) ∧
      (chanGet buf ch).toNat = min duty Config.dutyMax ∧
      (∀ c, c ≠ ch → chanGet buf c = chanGet s.buf c))

/-- R64: PWM_SETDUTY, whatever PWM_PIN_MAP is. -/
def Obligations.PwmSetDutyWritesItsOwnDuty : Prop :=
  (∀ (pin duty : Nat), pin ≤ 255 → duty ≤ 65535 →
    encode (.pwmSetDuty pin duty) = BitVec.ofNat 32 (0x70000000 + pin * 2 ^ 16 + duty)) ∧
  (∀ (pin duty : Nat) (s : State), pwmPinMap pin = none →
    exec (.pwmSetDuty pin duty) s = .next { s with fault := true, fcode := 0x02 }) ∧
  (∀ (pin duty : Nat) (ch : Channel) (s : State), pwmPinMap pin = some ch → channelOn s ch = false →
    exec (.pwmSetDuty pin duty) s = .next { s with fault := true, fcode := 0x03 }) ∧
  (∀ (pin duty : Nat) (ch : Channel) (s : State), pwmPinMap pin = some ch → channelOn s ch = true →
    ∃ buf : ChanFile Byte,
      exec (.pwmSetDuty pin duty) s = .next { s with buf := buf } ∧
      (chanGet buf ch).toNat = min duty Config.dutyMax ∧
      (∀ c, c ≠ ch → chanGet buf c = chanGet s.buf c))

/-- R65: PWM_DISABLE, whatever PWM_PIN_MAP is; the output is 0 at once (R28). -/
def Obligations.PwmDisableClearsItsOwnChannel : Prop :=
  (∀ pin : Nat, pin ≤ 255 → encode (.pwmDisable pin) = BitVec.ofNat 32 (0x80000000 + pin * 2 ^ 16)) ∧
  (∀ (pin : Nat) (s : State), pwmPinMap pin = none →
    exec (.pwmDisable pin) s = .next { s with fault := true, fcode := 0x02 }) ∧
  (∀ (pin : Nat) (ch : Channel) (s : State), pwmPinMap pin = some ch →
    ∃ (mode : PairFile Byte) (buf : ChanFile Byte),
      exec (.pwmDisable pin) s = .next { s with mode := mode, buf := buf } ∧
      pairGet mode ch.pair = pairGet s.mode ch.pair &&& ~~~(if ch.side = .A then (0x80 : Byte) else 0x40) ∧
      (∀ p, p ≠ ch.pair → pairGet mode p = pairGet s.mode p) ∧
      chanGet buf ch = 0 ∧
      (∀ c, c ≠ ch → chanGet buf c = chanGet s.buf c) ∧
      out { s with mode := mode, buf := buf } ch = false)

/-- R66: PWM_GETDUTY, whatever PWM_PIN_MAP is. -/
def Obligations.PwmGetDutyReturnsTheSetDuty : Prop :=
  (∀ pin : Nat, pin ≤ 255 → encode (.pwmGetDuty pin) = BitVec.ofNat 32 (0x90000000 + pin * 2 ^ 16)) ∧
  (∀ (pin : Nat) (s : State), pwmPinMap pin = none →
    exec (.pwmGetDuty pin) s = .next { s with fault := true, fcode := 0x02 }) ∧
  (∀ (pin : Nat) (ch : Channel) (s : State), pwmPinMap pin = some ch →
    exec (.pwmGetDuty pin) s = .next { s with result := BitVec.ofNat 32 (chanGet s.buf ch).toNat })

/-- R67: a PWMTICK turn counts its pair's period when CS is not 0, loads ACT from BUF for both channels of the pair at the
wrap and only there, and holds when CS is 0. That a turn of an agent that is not enabled moves only the schedule is
assumption log 2. -/
def Obligations.PwmTickCountsThePeriod : Prop :=
  ∀ (s : State) (p : Pair), chosen s = .agent (.pwmTick p) →
    ((pairGet s.mode p).toNat % 8 = 0 → step s = .next (consume s)) ∧
    ((pairGet s.mode p).toNat % 8 ≠ 0 → pairGet s.pcnt p ≠ 255 →
      ∃ pcnt : PairFile Byte,
        step s = .next { consume s with pcnt := pcnt } ∧
        pairGet pcnt p = pairGet s.pcnt p + 1 ∧ (∀ q, q ≠ p → pairGet pcnt q = pairGet s.pcnt q)) ∧
    ((pairGet s.mode p).toNat % 8 ≠ 0 → pairGet s.pcnt p = 255 →
      ∃ (pcnt : PairFile Byte) (act : ChanFile Byte),
        step s = .next { consume s with pcnt := pcnt, act := act } ∧
        pairGet pcnt p = 0 ∧ (∀ q, q ≠ p → pairGet pcnt q = pairGet s.pcnt q) ∧
        (∀ c : Channel, chanGet act c = if c.pair = p then chanGet s.buf c else chanGet s.act c))

/-- A PWM command and its pin operand. -/
def pinOperand (i : Instr) : Option Nat :=
  match i with
  | .clkInit => none
  | .msRead => none
  | .usRead => none
  | .sleepMs _ => none
  | .sleepUs _ => none
  | .pwmEnable pin _ => some pin
  | .pwmSetDuty pin _ => some pin
  | .pwmDisable pin => some pin
  | .pwmGetDuty pin => some pin
  | .irqOff => none
  | .irqOn => none

/-- R68, an inference of the spec (from R63 to R66 and R27): a PWM command on a channel leaves the sibling's OCE bit, duty
and active value and every other pair alone; the shared group changes only when PWM_ENABLE runs while CS = 0, and then
from 0 to SHARED. The premise is the invariant that LegalFieldsAreKept states. -/
def Obligations.PwmCommandsIsolateTheSibling : Prop :=
  ∀ (i : Instr) (pin : Nat) (ch : Channel) (s t : State),
    pinOperand i = some pin → pwmPinMap pin = some ch → LegalFields s → exec i s = .next t →
    modeOce (pairGet t.mode ch.pair) (sibling ch).side = modeOce (pairGet s.mode ch.pair) (sibling ch).side ∧
    chanGet t.buf (sibling ch) = chanGet s.buf (sibling ch) ∧
    t.act = s.act ∧
    (∀ p, p ≠ ch.pair → pairGet t.mode p = pairGet s.mode p) ∧
    (∀ c : Channel, c.pair ≠ ch.pair → chanGet t.buf c = chanGet s.buf c) ∧
    (∀ p, (pairGet t.mode p).toNat % 32 ≠ (pairGet s.mode p).toNat % 32 →
      (∃ duty, i = .pwmEnable pin duty) ∧ (pairGet s.mode p).toNat % 8 = 0 ∧
      (pairGet s.mode p).toNat % 32 = 0 ∧ (pairGet t.mode p).toNat % 32 = sharedGroup.toNat)

/-- R69, an inference of the spec (from R63 to R66): the channel state machine of R26, under the invariant I1 of R27. -/
def Obligations.ChannelsFollowTheStateMachine : Prop :=
  ∀ (pin duty : Nat) (ch : Channel) (s : State), pwmPinMap pin = some ch → ReachableInv s →
    (∃ t, exec (.pwmEnable pin duty) s = .next t ∧
      channelDuty t ch = some (BitVec.ofNat 8 (min duty Config.dutyMax))) ∧
    (channelDuty s ch = none →
      exec (.pwmSetDuty pin duty) s = .next { s with fault := true, fcode := 0x03 }) ∧
    (∀ x, channelDuty s ch = some x →
      ∃ t, exec (.pwmSetDuty pin duty) s = .next t ∧
        channelDuty t ch = some (BitVec.ofNat 8 (min duty Config.dutyMax))) ∧
    (∃ t, exec (.pwmDisable pin) s = .next t ∧ channelDuty t ch = none) ∧
    (channelDuty s ch = none → exec (.pwmGetDuty pin) s = .next { s with result := 0 }) ∧
    (∀ x, channelDuty s ch = some x →
      exec (.pwmGetDuty pin) s = .next { s with result := BitVec.ofNat 32 x.toNat })

/-- R28: the output of a channel. -/
def Obligations.OutputComparesTheActiveValue : Prop :=
  ∀ (s : State) (ch : Channel),
    out s ch = true ↔
      modeOce (pairGet s.mode ch.pair) ch.side = true ∧ (pairGet s.pcnt ch.pair).toNat < (chanGet s.act ch).toNat

/-- R70: a step changes a MODE or a duty register only by executing PWM_ENABLE, PWM_SETDUTY or PWM_DISABLE, or by reset;
in particular no agent but HOST does. -/
def Obligations.OnlyPwmCommandsChangeModeAndDuty : Prop :=
  ∀ s t : State, step s = .next t → t.mode ≠ s.mode ∨ t.buf ≠ s.buf →
    chosen s = .reset ∨
    (∃ pin duty, executed s = some (.pwmEnable pin duty)) ∨ (∃ pin duty, executed s = some (.pwmSetDuty pin duty)) ∨
    (∃ pin, executed s = some (.pwmDisable pin))

/-- R25, R67, R104: a step changes a period counter or an active value only by a PWMTICK of its pair or by reset, and an
active value only at the wrap. -/
def Obligations.OnlyPwmTicksChangeTheWaveform : Prop :=
  ∀ s t : State, step s = .next t → chosen s ≠ .reset →
    (∀ p, pairGet t.pcnt p ≠ pairGet s.pcnt p → takes (.pwmTick p) s = true) ∧
    (∀ c : Channel, chanGet t.act c ≠ chanGet s.act c →
      takes (.pwmTick c.pair) s = true ∧ pairGet s.pcnt c.pair = 255 ∧ chanGet t.act c = chanGet s.buf c)

/-- R24: once a pair's shared group holds WGM_PWM and CS_PWM, every step but reset keeps it. -/
def Obligations.SharedGroupStaysSet : Prop :=
  ∀ (s t : State) (p : Pair), step s = .next t → chosen s ≠ .reset →
    modeWgm (pairGet s.mode p) = Config.wgmPwm → modeCs (pairGet s.mode p) = Config.csPwm →
    modeWgm (pairGet t.mode p) = Config.wgmPwm ∧ modeCs (pairGet t.mode p) = Config.csPwm

/-! ### Interrupt delivery (42_irq_control.md, 60_exceptions.md) -/

/-- R71: IRQ_OFF. -/
def Obligations.IrqOffMasksDelivery : Prop :=
  encode .irqOff = 0xA0000000 ∧ ∀ s : State, exec .irqOff s = .next { s with gie := false }

/-- R72: IRQ_ON. -/
def Obligations.IrqOnUnmasksDelivery : Prop :=
  encode .irqOn = 0xB0000000 ∧ ∀ s : State, exec .irqOn s = .next { s with gie := true }

/-- R85: a RAWSTEP turn counts RAW when RUN = 1, setting OVF_PEND at the wrap, and holds when RUN = 0. That a turn of an
agent that is not enabled moves only the schedule is assumption log 2. -/
def Obligations.RawStepCountsAndOverflows : Prop :=
  ∀ s : State, chosen s = .agent .rawStep →
    (s.run = false → step s = .next (consume s)) ∧
    (s.run = true → s.raw ≠ 255 → step s = .next { consume s with raw := s.raw + 1 }) ∧
    (s.run = true → s.raw = 255 → step s = .next { consume s with raw := 0, ovfPend := true })

/-- R86: a CMEVENT turn sets CM_PEND when RUN = 1 and holds when RUN = 0. That a turn of an agent that is not enabled
moves only the schedule is assumption log 2. -/
def Obligations.CmEventSetsItsFlag : Prop :=
  ∀ s : State, chosen s = .agent .cmEvent →
    (s.run = false → step s = .next (consume s)) ∧
    (s.run = true → step s = .next { consume s with cmPend := true })

/-- R79: an ISR_OVF turn services the overflow exactly when GIE, TIE_OVF and OVF_PEND are 1. That a turn of an agent that
is not enabled moves only the schedule is assumption log 2. -/
def Obligations.IsrOvfServicesTheOverflow : Prop :=
  ∀ s : State, chosen s = .agent .isrOvf →
    (s.gie = true → s.tieOvf = true → s.ovfPend = true →
      step s = .next { consume s with ovfPend := false, tick := s.tick + 1 }) ∧
    (s.gie = false ∨ s.tieOvf = false ∨ s.ovfPend = false → step s = .next (consume s))

/-- R80: an ISR_CM turn services the compare match exactly when GIE, TIE_CM and CM_PEND are 1. That a turn of an agent
that is not enabled moves only the schedule is assumption log 2. -/
def Obligations.IsrCmServicesTheMatch : Prop :=
  ∀ s : State, chosen s = .agent .isrCm →
    (s.gie = true → s.tieCm = true → s.cmPend = true →
      step s = .next { consume s with cmPend := false, ms := s.ms + 1 }) ∧
    (s.gie = false ∨ s.tieCm = false ∨ s.cmPend = false → step s = .next (consume s))

/-- R81, the part the spec infers from R79 and R80: when both services are enabled, taking them in either order is
possible and leaves the same state. -/
def Obligations.ServicesCommute : Prop :=
  ∀ s : State, isrOvfEnabled s = true → isrCmEnabled s = true →
    ∃ a b t : State,
      runEvent (.agent .isrOvf) s = .next a ∧ runEvent (.agent .isrCm) a = .next t ∧
      runEvent (.agent .isrCm) s = .next b ∧ runEvent (.agent .isrOvf) b = .next t ∧
      t = { s with ovfPend := false, tick := s.tick + 1, cmPend := false, ms := s.ms + 1 }

/-- R21, R77: a pending flag is set only by its event and cleared only by its service, CLK_INIT or reset. -/
def Obligations.PendingFlagsHaveTheirOwnWriters : Prop :=
  ∀ s t : State, step s = .next t → chosen s ≠ .reset →
    (s.ovfPend = false → t.ovfPend = true → takes .rawStep s = true ∧ s.raw = 255) ∧
    (s.ovfPend = true → t.ovfPend = false → takes .isrOvf s = true ∨ executed s = some .clkInit) ∧
    (s.cmPend = false → t.cmPend = true → takes .cmEvent s = true) ∧
    (s.cmPend = true → t.cmPend = false → takes .isrCm s = true ∨ executed s = some .clkInit)

/-- R22, R77: RUN and the source enables are set only by CLK_INIT and stay set until reset; GIE is set only by CLK_INIT
and IRQ_ON and cleared only by IRQ_OFF or reset. -/
def Obligations.EnablesHaveTheirOwnWriters : Prop :=
  ∀ s t : State, step s = .next t → chosen s ≠ .reset →
    (s.run = true → t.run = true) ∧ (s.run = false → t.run = true → executed s = some .clkInit) ∧
    (s.tieOvf = true → t.tieOvf = true) ∧ (s.tieOvf = false → t.tieOvf = true → executed s = some .clkInit) ∧
    (s.tieCm = true → t.tieCm = true) ∧ (s.tieCm = false → t.tieCm = true → executed s = some .clkInit) ∧
    (s.gie = true → t.gie = false → executed s = some .irqOff) ∧
    (s.gie = false → t.gie = true → executed s = some .irqOn ∨ executed s = some .clkInit)

/-- R18, R19, R20: TICK, MS and RAW each change only by one step of their own agent, or are zeroed by CLK_INIT or reset.
-/
def Obligations.CountersHaveTheirOwnWriters : Prop :=
  ∀ s t : State, step s = .next t →
    (t.tick = s.tick ∨ (takes .isrOvf s = true ∧ t.tick = s.tick + 1) ∨
      ((executed s = some .clkInit ∨ chosen s = .reset) ∧ t.tick = 0)) ∧
    (t.ms = s.ms ∨ (takes .isrCm s = true ∧ t.ms = s.ms + 1) ∨
      ((executed s = some .clkInit ∨ chosen s = .reset) ∧ t.ms = 0)) ∧
    (t.raw = s.raw ∨ (takes .rawStep s = true ∧ t.raw = s.raw + 1) ∨
      ((executed s = some .clkInit ∨ chosen s = .reset) ∧ t.raw = 0))

/-- R23, R38, R106: RESULT changes only by MS_READ, US_READ, PWM_GETDUTY or reset. -/
def Obligations.OnlyReadingCommandsChangeResult : Prop :=
  ∀ s t : State, step s = .next t → t.result ≠ s.result →
    chosen s = .reset ∨ executed s = some .msRead ∨ executed s = some .usRead ∨
    (∃ pin, executed s = some (.pwmGetDuty pin))

/-- R56, R99: a sleep in progress is ended only by its last SLEEPER step or by reset; until then only SLEEPER moves its
timestamp and remaining duration, and no command runs. -/
def Obligations.SleepRunsToCompletion : Prop :=
  ∀ s t : State, step s = .next t → s.busy = true → chosen s ≠ .reset →
    executed s = none ∧ t.gie = s.gie ∧
    (t.busy = false → takes .sleeper s = true ∧ s.slpRem = 1) ∧
    (t.slpRem ≠ s.slpRem ∨ t.slpStart ≠ s.slpStart → takes .sleeper s = true)

/-! ### Faults, reset and invariants (60_exceptions.md, 70_reset_and_hazards.md, 10_state.md) -/

/-- R74: a fault is precise (the command that raises it changes nothing but FAULT and FCODE), sticky until reset, and
stops no agent but HOST. -/
def Obligations.FaultsArePreciseAndSticky : Prop :=
  (∀ (i : Instr) (s t : State), exec i s = .next t → s.fault = false → t.fault = true →
    t = { s with fault := true, fcode := t.fcode }) ∧
  (∀ s t : State, step s = .next t → s.fault = true → chosen s ≠ .reset →
    t.fault = true ∧ t.fcode = s.fcode ∧ executed s = none) ∧
  (∀ (a : Agent) (s : State) (code : Byte), a ≠ .host →
    agentEnabled a { s with fault := true, fcode := code } = agentEnabled a s)

/-- R96: reset sets every element of the unit to its reset value, 0. The model's own fields are left open here. -/
def Obligations.ResetZeroesEveryElement : Prop :=
  ∀ s : State, chosen s = .reset →
    ∃ t : State, step s = .next t ∧ t = {
      gie := false, run := false, tieOvf := false, tieCm := false, ovfPend := false, cmPend := false,
      raw := 0, tick := 0, ms := 0, cmdl := ⟨0, 0, 0, 0⟩, result := 0, busy := false, fault := false, fcode := 0,
      slpStart := 0, slpRem := 0, mode := ⟨0, 0, 0⟩, buf := ⟨0, 0, 0, 0, 0, 0⟩, act := ⟨0, 0, 0, 0, 0, 0⟩,
      pcnt := ⟨0, 0, 0⟩, hpc := 0, prog := t.prog, hostRead := t.hostRead, sched := t.sched, picks := t.picks }

/-- R97, an inference of the spec (from R96): after reset no agent but HOST is enabled, every channel is Disabled with
duty 0, and reads return 0 (R98). -/
def Obligations.AfterResetOnlyTheHostCanStep : Prop :=
  (∀ (s : State) (a : Agent), a ≠ .host → agentEnabled a (resetUnit s) = false) ∧
  (∀ (s : State) (ch : Channel), channelDuty (resetUnit s) ch = none ∧ chanGet (resetUnit s).buf ch = 0) ∧
  (∀ (s : State), exec .msRead (resetUnit s) = .next (resetUnit s) ∧
    exec .usRead (resetUnit s) = .next (resetUnit s))

/-- R27, an inference of the spec (and, for LegalFields, R24, R57, R75): the state after reset satisfies I1 to I5 and has
legal fields. -/
def Obligations.InvariantsHoldAtReset : Prop := ReachableInv State.reset ∧ LegalFields State.reset

/-- R27, an inference of the spec: every step keeps I1 to I5. -/
def Obligations.ReachableInvIsKept : Prop := ∀ s t : State, ReachableInv s → step s = .next t → ReachableInv t

/-- R24, R57, R75: every step keeps the shared group of each pair all idle or all PWM, SLP_REM at least 1 while BUSY = 1,
and FCODE at most 0x07. -/
def Obligations.LegalFieldsAreKept : Prop := ∀ s t : State, LegalFields s → step s = .next t → LegalFields t

/-- R90: a finished program stays finished under every agent's turn. -/
def Obligations.FinishedStaysFinished : Prop :=
  ∀ (s t : State) (a : Agent), finished s = true → chosen s = .agent a → step s = .next t → finished t = true

/-- R89: in a weakly fair run without a reset, once RUN = 1 the raw counter steps again and again. -/
def Obligations.FairRunsKeepCounting : Prop :=
  ∀ (e : Nat → Event) (r : Nat → State) (n : Nat),
    IsRun e r → WeaklyFair e r → (∀ m, e m ≠ .reset) → (r n).run = true →
    ∃ m, n ≤ m ∧ e m = .agent .rawStep ∧ (r (m + 1)).raw = (r m).raw + 1

/-- R90: a run of the program P ends at the first state with hpc = n, BUSY = 0 and FAULT = 0, which is its one final state
and is not faulted. A run has no final state when hpc never is n, when BUSY stays 1 forever, or when a fault comes before
the end and no reset after it. -/
def Obligations.RunsEndAtTheFirstFinishedState : Prop :=
  ∀ (P : List Word) (e : Nat → Event) (r : Nat → State), IsRunOf P e r →
    (∀ n, EndsAt r n ↔
      ((r n).hpc = P.length ∧ (r n).busy = false ∧ (r n).fault = false) ∧
      ∀ m, m < n → ¬ ((r m).hpc = P.length ∧ (r m).busy = false ∧ (r m).fault = false)) ∧
    (∀ n t, EndsAt r n → (IsFinalState r t ↔ t = r n)) ∧
    (∀ n, (r n).hpc = P.length → (r n).busy = false → (r n).fault = false → ∃ m, m ≤ n ∧ EndsAt r m) ∧
    (∀ t, IsFinalState r t → faulted t = false) ∧
    ((∀ n, (r n).hpc ≠ P.length) → HasNoFinalState r) ∧
    (∀ m, (∀ k, k < m → finished (r k) = false) → (∀ n, m ≤ n → (r n).busy = true) → HasNoFinalState r) ∧
    (∀ m, (∀ k, k < m → finished (r k) = false) → (r m).fault = true → (∀ n, m ≤ n → e n ≠ .reset) →
      HasNoFinalState r)
end

