-- ==== Sys2Proof/Laws/Assembler.lean ====
section
/-! SUPPORT. What the reader of assembler text does with operands that hold no blank and no comma, which is every number and
every pin it accepts. -/

namespace Sys2Proof.Machine

/-- Text that neither blanks nor commas break. -/
def Unbroken (cs : List Char) : Prop := ∀ c ∈ cs, c ≠ ' ' ∧ c ≠ ','

theorem Unbroken.cons_inv {c : Char} {cs : List Char} (h : Unbroken (c :: cs)) : (c ≠ ' ' ∧ c ≠ ',') ∧ Unbroken cs :=
  ⟨h c (by simp), fun x hx => h x (by simp [hx])⟩

theorem Unbroken.cons {c : Char} {cs : List Char} (hc : c ≠ ' ' ∧ c ≠ ',') (h : Unbroken cs) : Unbroken (c :: cs) := by
  intro x hx
  rcases List.mem_cons.1 hx with rfl | hx
  · exact hc
  · exact h x hx

theorem digitValue_unbroken {base : Nat} {c : Char} (h : digitValue base c ≠ none) : c ≠ ' ' ∧ c ≠ ',' := by
  constructor <;> rintro rfl <;> exact h (by simp [digitValue])

/-- Digits that are read hold no blank and no comma. -/
theorem readDigits_unbroken {base acc n : Nat} {cs : List Char} (h : readDigits base acc cs = some n) : Unbroken cs := by
  induction cs generalizing acc with
  | nil => intro c hc; cases hc
  | cons c cs ih =>
    cases hv : digitValue base c with
    | none => simp [readDigits, hv] at h
    | some v =>
      simp only [readDigits, hv] at h
      exact .cons (digitValue_unbroken (base := base) (by simp [hv])) (ih h)

/-- A number that is read is not empty and holds no blank and no comma. -/
theorem readNumber_unbroken {cs : List Char} {n : Nat} (h : readNumber cs = some n) : cs ≠ [] ∧ Unbroken cs := by
  unfold readNumber at h
  split at h
  · simp at h
  · simp at h
  · exact ⟨by simp, .cons (by decide) (.cons (by decide) (readDigits_unbroken h))⟩
  · rename_i hne _ _
    exact ⟨hne, readDigits_unbroken h⟩

/-- A pin that is read is not empty and holds no blank and no comma. -/
theorem readPin_unbroken {cs : List Char} {q : AsmPin} (h : readPin cs = some q) : cs ≠ [] ∧ Unbroken cs := by
  unfold readPin at h
  split at h
  · obtain ⟨n, hn, -⟩ := Option.map_eq_some_iff.1 h
    exact ⟨by simp, .cons (by decide) (readDigits_unbroken hn)⟩
  · obtain ⟨n, hn, -⟩ := Option.map_eq_some_iff.1 h
    exact ⟨by simp, .cons (by decide) (readDigits_unbroken hn)⟩
  · obtain ⟨n, hn, -⟩ := Option.map_eq_some_iff.1 h
    exact readNumber_unbroken hn

theorem dropBlanks_of_unbroken {cs : List Char} (hne : cs ≠ []) (h : Unbroken cs) (rest : List Char) :
    (cs ++ rest).dropWhile (· = ' ') = cs ++ rest := by
  cases cs with
  | nil => exact absurd rfl hne
  | cons c cs => simp [(h.cons_inv).1.1]

/-- Text that starts and ends in unbroken pieces has no blank to trim. -/
theorem trimBlanks_between {p d : List Char} (mid : List Char) (hp : p ≠ []) (hd : d ≠ []) (h : Unbroken p)
    (h' : Unbroken d) : trimBlanks (p ++ mid ++ d) = p ++ mid ++ d := by
  have hr : Unbroken d.reverse := fun c hc => h' c (by simpa using hc)
  unfold trimBlanks
  rw [List.append_assoc, dropBlanks_of_unbroken hp h, ← List.append_assoc, List.reverse_append,
    dropBlanks_of_unbroken (by simpa using hd) hr, ← List.reverse_append, List.reverse_reverse]

theorem trimBlanks_unbroken {cs : List Char} (hne : cs ≠ []) (h : Unbroken cs) : trimBlanks cs = cs := by
  have hr : Unbroken cs.reverse := fun c hc => h c (by simpa using hc)
  have h1 := dropBlanks_of_unbroken hne h []
  have h2 := dropBlanks_of_unbroken (by simpa using hne) hr []
  rw [List.append_nil] at h1 h2
  rw [trimBlanks, h1, h2, List.reverse_reverse]

@[simp] theorem trimBlanks_blank (cs : List Char) : trimBlanks (' ' :: cs) = trimBlanks cs := by
  simp [trimBlanks]

theorem splitOperands_unbroken {cs : List Char} (h : Unbroken cs) : splitOperands cs = [cs] := by
  induction cs with
  | nil => rfl
  | cons c cs ih => simp [splitOperands, ih h.cons_inv.2, h.cons_inv.1.2]

theorem splitOperands_pair {p d : List Char} (h : Unbroken p) (h' : Unbroken d) :
    splitOperands (p ++ ([',', ' '] ++ d)) = [p, ' ' :: d] := by
  induction p with
  | nil => simp [splitOperands, splitOperands_unbroken h']
  | cons c cs ih =>
    rw [List.cons_append, splitOperands, ih h.cons_inv.2]
    simp [h.cons_inv.1.2]

/-- A mnemonic and a blank in front of the operands. -/
theorem parseLine_mnemonic {m cs : List Char} (hne : m ≠ []) (h : Unbroken m) :
    parseLine (m ++ ' ' :: cs) = (readMnemonic m).bind fun k =>
      lineOf k (if trimBlanks cs = [] then [] else (splitOperands (trimBlanks cs)).map trimBlanks) := by
  have hm : ∀ c ∈ m, decide (c ≠ ' ') = true := fun c hc => by simp [(h c hc).1]
  have h1 : (m ++ ' ' :: cs).dropWhile (· ≠ ' ') = ' ' :: cs := by
    rw [List.dropWhile_append_of_pos hm]
    simp
  have h2 : (m ++ ' ' :: cs).takeWhile (· ≠ ' ') = m := by
    rw [List.takeWhile_append_of_pos hm]
    simp
  simp only [parseLine, dropBlanks_of_unbroken hne h, h1, h2, trimBlanks_blank]

/-- A line with one operand. -/
theorem parseLine_one {m d : List Char} (hm : m ≠ []) (hd : d ≠ []) (h : Unbroken m) (h' : Unbroken d) :
    parseLine (m ++ ' ' :: d) = (readMnemonic m).bind fun k => lineOf k [d] := by
  simp only [parseLine_mnemonic hm h, trimBlanks_unbroken hd h', hd, if_false, splitOperands_unbroken h', List.map]

/-- A line with two operands. -/
theorem parseLine_two {m p d : List Char} (hm : m ≠ []) (hp : p ≠ []) (hd : d ≠ []) (h : Unbroken m) (h' : Unbroken p)
    (h'' : Unbroken d) :
    parseLine (m ++ ' ' :: (p ++ ([',', ' '] ++ d))) = (readMnemonic m).bind fun k => lineOf k [p, d] := by
  have ht := trimBlanks_between [',', ' '] hp hd h' h''
  rw [List.append_assoc] at ht
  have hne : ¬ p ++ ([',', ' '] ++ d) = [] := by simp
  simp only [parseLine_mnemonic hm h, ht, hne, if_false, splitOperands_pair h' h'', List.map, trimBlanks_blank,
    trimBlanks_unbroken hp h', trimBlanks_unbroken hd h'']

/-- Digits are read from left to right. -/
theorem readDigits_append (base acc : Nat) (xs ys : List Char) :
    readDigits base acc (xs ++ ys) = (readDigits base acc xs).bind fun v => readDigits base v ys := by
  induction xs generalizing acc with
  | nil => rfl
  | cons c xs ih =>
    simp only [List.cons_append, readDigits]
    cases digitValue base c with
    | none => rfl
    | some v => exact ih _

end Sys2Proof.Machine
end

