-- ==== Sys2Proof/Laws/Decode.lean ====
section
/-! SUPPORT. The decoder and the encoder on a word given by its four fields: the lemmas a proof about encodings cites. -/

namespace Sys2Proof

/-- The word of the four fields OP, RSV, bits [23:16] and bits [15:0] (R46). -/
def fieldsWord (op rsv : BitVec 4) (hi : BitVec 8) (lo : BitVec 16) : Word := op ++ rsv ++ hi ++ lo

theorem append_inj {m n : Nat} {a c : BitVec m} {b d : BitVec n} : a ++ b = c ++ d ↔ a = c ∧ b = d := by
  constructor
  · intro h
    constructor
    · have := congrArg (fun x => x.extractLsb' n m) h
      simpa [BitVec.extractLsb'_append_eq_left] using this
    · have := congrArg (fun x => x.extractLsb' 0 n) h
      simpa [BitVec.extractLsb'_append_eq_right] using this
  · rintro ⟨rfl, rfl⟩
    rfl

/-- Every word is the word of its fields. -/
theorem fieldsWord_fields (w : Word) :
    fieldsWord (opField w) (rsvField w) (w.extractLsb' 16 8) (w.extractLsb' 0 16) = w := by
  unfold fieldsWord opField rsvField
  rw [BitVec.extractLsb'_append_extractLsb'_eq_extractLsb' (by rfl),
    BitVec.extractLsb'_append_extractLsb'_eq_extractLsb' (by rfl),
    BitVec.extractLsb'_append_extractLsb'_eq_extractLsb' (by rfl)]
  simp

theorem fieldsWord_and (op rsv op' rsv' : BitVec 4) (hi hi' : BitVec 8) (lo lo' : BitVec 16) :
    fieldsWord op rsv hi lo &&& fieldsWord op' rsv' hi' lo' =
      fieldsWord (op &&& op') (rsv &&& rsv') (hi &&& hi') (lo &&& lo') := by
  unfold fieldsWord
  rw [← BitVec.and_append, ← BitVec.and_append, ← BitVec.and_append]

theorem fieldsWord_inj {op rsv op' rsv' : BitVec 4} {hi hi' : BitVec 8} {lo lo' : BitVec 16} :
    fieldsWord op rsv hi lo = fieldsWord op' rsv' hi' lo' ↔ op = op' ∧ rsv = rsv' ∧ hi = hi' ∧ lo = lo' := by
  constructor
  · intro h
    obtain ⟨h, h4⟩ := (append_inj (m := 16) (n := 16)).1 h
    obtain ⟨h, h3⟩ := (append_inj (m := 8) (n := 8)).1 h
    obtain ⟨h1, h2⟩ := (append_inj (m := 4) (n := 4)).1 h
    exact ⟨h1, h2, h3, h4⟩
  · rintro ⟨rfl, rfl, rfl, rfl⟩
    rfl

theorem fieldsWord_toNat (op rsv : BitVec 4) (hi : BitVec 8) (lo : BitVec 16) :
    (fieldsWord op rsv hi lo).toNat = op.toNat * 2 ^ 28 + rsv.toNat * 2 ^ 24 + hi.toNat * 2 ^ 16 + lo.toNat := by
  have h0 := lo.isLt
  have h1 := hi.isLt
  have h2 := rsv.isLt
  refine (BitVec.toNat_append (op ++ rsv ++ hi) lo).trans ?_
  rw [BitVec.toNat_append (op ++ rsv) hi, BitVec.toNat_append op rsv]
  rw [← Nat.shiftLeft_add_eq_or_of_lt h2, ← Nat.shiftLeft_add_eq_or_of_lt h1, ← Nat.shiftLeft_add_eq_or_of_lt h0]
  simp only [Nat.shiftLeft_eq]
  omega

@[simp] theorem opField_fieldsWord (op rsv : BitVec 4) (hi : BitVec 8) (lo : BitVec 16) :
    opField (fieldsWord op rsv hi lo) = op :=
  (fieldsWord_inj.1 (fieldsWord_fields (fieldsWord op rsv hi lo))).1

@[simp] theorem rsvField_fieldsWord (op rsv : BitVec 4) (hi : BitVec 8) (lo : BitVec 16) :
    rsvField (fieldsWord op rsv hi lo) = rsv :=
  (fieldsWord_inj.1 (fieldsWord_fields (fieldsWord op rsv hi lo))).2.1

@[simp] theorem pinField_fieldsWord (op rsv : BitVec 4) (hi : BitVec 8) (lo : BitVec 16) :
    pinField (fieldsWord op rsv hi lo) = hi.toNat :=
  congrArg BitVec.toNat (fieldsWord_inj.1 (fieldsWord_fields (fieldsWord op rsv hi lo))).2.2.1

@[simp] theorem dutyField_fieldsWord (op rsv : BitVec 4) (hi : BitVec 8) (lo : BitVec 16) :
    dutyField (fieldsWord op rsv hi lo) = lo.toNat :=
  congrArg BitVec.toNat (fieldsWord_inj.1 (fieldsWord_fields (fieldsWord op rsv hi lo))).2.2.2

@[simp] theorem durField_fieldsWord (op rsv : BitVec 4) (hi : BitVec 8) (lo : BitVec 16) :
    durField (fieldsWord op rsv hi lo) = hi.toNat * 2 ^ 16 + lo.toNat := by
  have h := fieldsWord_toNat op rsv hi lo
  have h0 := lo.isLt
  have h1 := hi.isLt
  simp only [durField, BitVec.extractLsb'_toNat, h, Nat.shiftRight_zero]
  omega

/-- Whether a row of the map selects a word, field by field. -/
theorem selects_fieldsWord (k : Opcode) (op rsv op' rsv' mop mrsv : BitVec 4) (hi hi' mhi : BitVec 8)
    (lo lo' mlo : BitVec 16) :
    (OpcodeRow.mk k (fieldsWord op' rsv' hi' lo') (fieldsWord mop mrsv mhi mlo)).selects (fieldsWord op rsv hi lo)
      = decide (op &&& mop = op' ∧ rsv &&& mrsv = rsv' ∧ hi &&& mhi = hi' ∧ lo &&& mlo = lo') := by
  simp only [OpcodeRow.selects, fieldsWord_and, beq_eq_decide, fieldsWord_inj]

/-- The opcode map with its patterns and masks given by fields. -/
theorem opcodeMap_fields : opcodeMap =
    [ ⟨.clkInit,    fieldsWord 0x1 0 0 0, fieldsWord 0xF 0xF 0xFF 0xFFFF⟩,
      ⟨.msRead,     fieldsWord 0x2 0 0 0, fieldsWord 0xF 0xF 0xFF 0xFFFF⟩,
      ⟨.usRead,     fieldsWord 0x3 0 0 0, fieldsWord 0xF 0xF 0xFF 0xFFFF⟩,
      ⟨.sleepMs,    fieldsWord 0x4 0 0 0, fieldsWord 0xF 0xF 0 0⟩,
      ⟨.sleepUs,    fieldsWord 0x5 0 0 0, fieldsWord 0xF 0xF 0 0⟩,
      ⟨.pwmEnable,  fieldsWord 0x6 0 0 0, fieldsWord 0xF 0xF 0 0⟩,
      ⟨.pwmSetDuty, fieldsWord 0x7 0 0 0, fieldsWord 0xF 0xF 0 0⟩,
      ⟨.pwmDisable, fieldsWord 0x8 0 0 0, fieldsWord 0xF 0xF 0 0xFFFF⟩,
      ⟨.pwmGetDuty, fieldsWord 0x9 0 0 0, fieldsWord 0xF 0xF 0 0xFFFF⟩,
      ⟨.irqOff,     fieldsWord 0xA 0 0 0, fieldsWord 0xF 0xF 0xFF 0xFFFF⟩,
      ⟨.irqOn,      fieldsWord 0xB 0 0 0, fieldsWord 0xF 0xF 0xFF 0xFFFF⟩ ] := by
  decide

theorem and_f (x : BitVec 4) : x &&& 0xF = x := by revert x; decide

theorem and_ff (x : BitVec 8) : x &&& 0xFF = x := by
  rw [show (0xFF : BitVec 8) = BitVec.allOnes 8 from rfl, BitVec.and_allOnes]

theorem and_ffff (x : BitVec 16) : x &&& 0xFFFF = x := by
  rw [show (0xFFFF : BitVec 16) = BitVec.allOnes 16 from rfl, BitVec.and_allOnes]

theorem and_zero8 (x : BitVec 8) : (x &&& 0 = 0) = True := by simp

theorem and_zero16 (x : BitVec 16) : (x &&& 0 = 0) = True := by simp

theorem find_cons {α : Type} (p : α → Bool) (a : α) (as : List α) :
    (a :: as).find? p = if p a = true then some a else as.find? p := by
  cases h : p a <;> simp [h]

theorem elim_ite {α β : Type} (c : Prop) [Decidable c] (a : α) (o : Option α) (n : β) (f : α → β) :
    (if c then some a else o).elim n f = if c then f a else o.elim n f := by
  by_cases h : c <;> simp [h]

theorem decode_eq_elim (w : Word) :
    decode w = (opcodeMap.find? fun r => r.selects w).elim (.error (illegalReason w))
      (fun r => .ok (readOperands r.op w)) := by
  unfold decode
  cases opcodeMap.find? fun r => r.selects w <;> rfl

/-- The row a word selects, from its fields (R48). -/
theorem decode_fieldsWord (op rsv : BitVec 4) (hi : BitVec 8) (lo : BitVec 16) :
    decode (fieldsWord op rsv hi lo) =
      if op = 0x1 ∧ rsv = 0 ∧ hi = 0 ∧ lo = 0 then .ok .clkInit
      else if op = 0x2 ∧ rsv = 0 ∧ hi = 0 ∧ lo = 0 then .ok .msRead
      else if op = 0x3 ∧ rsv = 0 ∧ hi = 0 ∧ lo = 0 then .ok .usRead
      else if op = 0x4 ∧ rsv = 0 then .ok (.sleepMs (hi.toNat * 2 ^ 16 + lo.toNat))
      else if op = 0x5 ∧ rsv = 0 then .ok (.sleepUs (hi.toNat * 2 ^ 16 + lo.toNat))
      else if op = 0x6 ∧ rsv = 0 then .ok (.pwmEnable hi.toNat lo.toNat)
      else if op = 0x7 ∧ rsv = 0 then .ok (.pwmSetDuty hi.toNat lo.toNat)
      else if op = 0x8 ∧ rsv = 0 ∧ lo = 0 then .ok (.pwmDisable hi.toNat)
      else if op = 0x9 ∧ rsv = 0 ∧ lo = 0 then .ok (.pwmGetDuty hi.toNat)
      else if op = 0xA ∧ rsv = 0 ∧ hi = 0 ∧ lo = 0 then .ok .irqOff
      else if op = 0xB ∧ rsv = 0 ∧ hi = 0 ∧ lo = 0 then .ok .irqOn
      else .error (illegalReason (fieldsWord op rsv hi lo)) := by
  rw [decode_eq_elim, opcodeMap_fields]
  simp only [find_cons, selects_fieldsWord, and_f, and_ff, and_ffff, and_zero8, and_zero16,
    decide_eq_true_eq, elim_ite, Option.elim_none, List.find?_nil, readOperands,
    pinField_fieldsWord, dutyField_fieldsWord, durField_fieldsWord, true_and, and_true]

/-- The encoder's words, by fields (R46, R48). -/
theorem packWord_eq (op : BitVec 4) (low : BitVec 24) :
    packWord op low = fieldsWord op 0 (low.extractLsb' 16 8) (low.extractLsb' 0 16) := by
  apply BitVec.eq_of_toNat_eq
  rw [fieldsWord_toNat]
  have h := low.isLt
  refine (BitVec.toNat_append (op ++ 0#4) low).trans ?_
  rw [BitVec.toNat_append op 0#4, ← Nat.shiftLeft_add_eq_or_of_lt (b := (0#4).toNat) (by decide),
    ← Nat.shiftLeft_add_eq_or_of_lt h]
  simp only [Nat.shiftLeft_eq, BitVec.extractLsb'_toNat, Nat.shiftRight_eq_div_pow]
  simp
  omega

theorem packPin_fields (pin : Nat) (low : BitVec 16) :
    (packPin pin low).extractLsb' 16 8 = BitVec.ofNat 8 pin ∧ (packPin pin low).extractLsb' 0 16 = low := by
  unfold packPin
  exact ⟨BitVec.extractLsb'_append_eq_left, BitVec.extractLsb'_append_eq_right⟩

end Sys2Proof
end

