-- ==== Sys2Proof/Laws/Fields.lean ====
section
/-! SUPPORT. The small lemmas of the operand forms: indexing of the PWM register files, the pin map, the fields of a MODE
register. -/

namespace Sys2Proof.Machine

@[simp] theorem pairGet_pairSet_self {α : Type} (f : PairFile α) (p : Pair) (v : α) :
    pairGet (pairSet f p v) p = v := by
  cases p <;> rfl

theorem pairGet_pairSet_ne {α : Type} (f : PairFile α) {p q : Pair} (v : α) (h : q ≠ p) :
    pairGet (pairSet f p v) q = pairGet f q := by
  cases p <;> cases q <;> first | rfl | exact absurd rfl h

theorem pairGet_pairSet {α : Type} (f : PairFile α) (p q : Pair) (v : α) :
    pairGet (pairSet f p v) q = if q = p then v else pairGet f q := by
  by_cases h : q = p
  · subst h; simp
  · rw [if_neg h, pairGet_pairSet_ne f v h]

@[simp] theorem pairSet_pairGet {α : Type} (f : PairFile α) (p : Pair) : pairSet f p (pairGet f p) = f := by
  cases p <;> rfl

@[simp] theorem chanGet_chanSet_self {α : Type} (f : ChanFile α) (ch : Channel) (v : α) :
    chanGet (chanSet f ch v) ch = v := by
  rcases ch with ⟨_ | _ | _, _ | _⟩ <;> rfl

theorem chanGet_chanSet_ne {α : Type} (f : ChanFile α) {ch c : Channel} (v : α) (h : c ≠ ch) :
    chanGet (chanSet f ch v) c = chanGet f c := by
  rcases ch with ⟨_ | _ | _, _ | _⟩ <;> rcases c with ⟨_ | _ | _, _ | _⟩ <;> first | rfl | exact absurd rfl h

theorem chanGet_chanSet {α : Type} (f : ChanFile α) (ch c : Channel) (v : α) :
    chanGet (chanSet f ch v) c = if c = ch then v else chanGet f c := by
  by_cases h : c = ch
  · subst h; simp
  · rw [if_neg h, chanGet_chanSet_ne f v h]

@[simp] theorem sibling_pair (ch : Channel) : (sibling ch).pair = ch.pair := rfl

@[simp] theorem sibling_side (ch : Channel) : (sibling ch).side = otherSide ch.side := rfl

theorem otherSide_ne (c : Side) : otherSide c ≠ c := by
  cases c <;> decide

theorem sibling_ne (ch : Channel) : sibling ch ≠ ch := fun h => otherSide_ne ch.side (congrArg Channel.side h)

theorem eq_sibling_of_pair_eq {c ch : Channel} (hp : c.pair = ch.pair) (hne : c ≠ ch) : c = sibling ch := by
  rcases ch with ⟨p, _ | _⟩ <;> rcases c with ⟨q, _ | _⟩ <;> simp_all [sibling, otherSide]

/-- A register that is read through its bits: bits 7, 6 and 5 and the shared group. -/
theorem mode_enabled_bits (m : Byte) (c : Side) :
    modeOce (modeEnabled m c) c = true ∧ modeOce (modeEnabled m c) (otherSide c) = modeOce m (otherSide c)
      ∧ (modeEnabled m c).getLsbD 5 = m.getLsbD 5
      ∧ (modeEnabled m c).extractLsb' 0 5 = sharedGroup.extractLsb' 0 5
      ∧ modeWgm (modeEnabled m c) = Config.wgmPwm ∧ modeCs (modeEnabled m c) = Config.csPwm := by
  revert m c
  have h : ∀ m : Byte, ∀ c ∈ [Side.A, Side.B],
      modeOce (modeEnabled m c) c = true ∧ modeOce (modeEnabled m c) (otherSide c) = modeOce m (otherSide c)
        ∧ (modeEnabled m c).getLsbD 5 = m.getLsbD 5
        ∧ (modeEnabled m c).extractLsb' 0 5 = sharedGroup.extractLsb' 0 5
        ∧ modeWgm (modeEnabled m c) = Config.wgmPwm ∧ modeCs (modeEnabled m c) = Config.csPwm := by decide
  intro m c
  exact h m c (by cases c <;> simp)

theorem mode_disabled_bits (m : Byte) (c : Side) :
    modeOce (modeDisabled m c) c = false ∧ modeOce (modeDisabled m c) (otherSide c) = modeOce m (otherSide c)
      ∧ (modeDisabled m c).getLsbD 5 = m.getLsbD 5
      ∧ (modeDisabled m c).extractLsb' 0 5 = m.extractLsb' 0 5
      ∧ modeWgm (modeDisabled m c) = modeWgm m ∧ modeCs (modeDisabled m c) = modeCs m := by
  revert m c
  have h : ∀ m : Byte, ∀ c ∈ [Side.A, Side.B],
      modeOce (modeDisabled m c) c = false ∧ modeOce (modeDisabled m c) (otherSide c) = modeOce m (otherSide c)
        ∧ (modeDisabled m c).getLsbD 5 = m.getLsbD 5
        ∧ (modeDisabled m c).extractLsb' 0 5 = m.extractLsb' 0 5
        ∧ modeWgm (modeDisabled m c) = modeWgm m ∧ modeCs (modeDisabled m c) = modeCs m := by decide
  intro m c
  exact h m c (by cases c <;> simp)

end Sys2Proof.Machine
end

