-- ==== Sys2Proof/Laws/State.lean ====
section
/-! SUPPORT. One lemma per field per update of the state, so that no later proof unfolds a record update. -/

namespace Sys2Proof.Machine

@[simp] theorem setMode_gie (p : Pair) (v : Byte) (s : State) : (setMode p v s).gie = s.gie := rfl
@[simp] theorem setMode_run (p : Pair) (v : Byte) (s : State) : (setMode p v s).run = s.run := rfl
@[simp] theorem setMode_tieOvf (p : Pair) (v : Byte) (s : State) : (setMode p v s).tieOvf = s.tieOvf := rfl
@[simp] theorem setMode_tieCm (p : Pair) (v : Byte) (s : State) : (setMode p v s).tieCm = s.tieCm := rfl
@[simp] theorem setMode_ovfPend (p : Pair) (v : Byte) (s : State) : (setMode p v s).ovfPend = s.ovfPend := rfl
@[simp] theorem setMode_cmPend (p : Pair) (v : Byte) (s : State) : (setMode p v s).cmPend = s.cmPend := rfl
@[simp] theorem setMode_raw (p : Pair) (v : Byte) (s : State) : (setMode p v s).raw = s.raw := rfl
@[simp] theorem setMode_tick (p : Pair) (v : Byte) (s : State) : (setMode p v s).tick = s.tick := rfl
@[simp] theorem setMode_ms (p : Pair) (v : Byte) (s : State) : (setMode p v s).ms = s.ms := rfl
@[simp] theorem setMode_cmdl (p : Pair) (v : Byte) (s : State) : (setMode p v s).cmdl = s.cmdl := rfl
@[simp] theorem setMode_result (p : Pair) (v : Byte) (s : State) : (setMode p v s).result = s.result := rfl
@[simp] theorem setMode_busy (p : Pair) (v : Byte) (s : State) : (setMode p v s).busy = s.busy := rfl
@[simp] theorem setMode_fault (p : Pair) (v : Byte) (s : State) : (setMode p v s).fault = s.fault := rfl
@[simp] theorem setMode_fcode (p : Pair) (v : Byte) (s : State) : (setMode p v s).fcode = s.fcode := rfl
@[simp] theorem setMode_slpStart (p : Pair) (v : Byte) (s : State) : (setMode p v s).slpStart = s.slpStart := rfl
@[simp] theorem setMode_slpRem (p : Pair) (v : Byte) (s : State) : (setMode p v s).slpRem = s.slpRem := rfl
@[simp] theorem setMode_mode (p : Pair) (v : Byte) (s : State) : (setMode p v s).mode = pairSet s.mode p v := rfl
@[simp] theorem setMode_buf (p : Pair) (v : Byte) (s : State) : (setMode p v s).buf = s.buf := rfl
@[simp] theorem setMode_act (p : Pair) (v : Byte) (s : State) : (setMode p v s).act = s.act := rfl
@[simp] theorem setMode_pcnt (p : Pair) (v : Byte) (s : State) : (setMode p v s).pcnt = s.pcnt := rfl
@[simp] theorem setMode_hpc (p : Pair) (v : Byte) (s : State) : (setMode p v s).hpc = s.hpc := rfl
@[simp] theorem setMode_prog (p : Pair) (v : Byte) (s : State) : (setMode p v s).prog = s.prog := rfl
@[simp] theorem setMode_hostRead (p : Pair) (v : Byte) (s : State) : (setMode p v s).hostRead = s.hostRead := rfl
@[simp] theorem setMode_sched (p : Pair) (v : Byte) (s : State) : (setMode p v s).sched = s.sched := rfl
@[simp] theorem setMode_picks (p : Pair) (v : Byte) (s : State) : (setMode p v s).picks = s.picks := rfl

@[simp] theorem setBuf_gie (ch : Channel) (v : Byte) (s : State) : (setBuf ch v s).gie = s.gie := rfl
@[simp] theorem setBuf_run (ch : Channel) (v : Byte) (s : State) : (setBuf ch v s).run = s.run := rfl
@[simp] theorem setBuf_tieOvf (ch : Channel) (v : Byte) (s : State) : (setBuf ch v s).tieOvf = s.tieOvf := rfl
@[simp] theorem setBuf_tieCm (ch : Channel) (v : Byte) (s : State) : (setBuf ch v s).tieCm = s.tieCm := rfl
@[simp] theorem setBuf_ovfPend (ch : Channel) (v : Byte) (s : State) : (setBuf ch v s).ovfPend = s.ovfPend := rfl
@[simp] theorem setBuf_cmPend (ch : Channel) (v : Byte) (s : State) : (setBuf ch v s).cmPend = s.cmPend := rfl
@[simp] theorem setBuf_raw (ch : Channel) (v : Byte) (s : State) : (setBuf ch v s).raw = s.raw := rfl
@[simp] theorem setBuf_tick (ch : Channel) (v : Byte) (s : State) : (setBuf ch v s).tick = s.tick := rfl
@[simp] theorem setBuf_ms (ch : Channel) (v : Byte) (s : State) : (setBuf ch v s).ms = s.ms := rfl
@[simp] theorem setBuf_cmdl (ch : Channel) (v : Byte) (s : State) : (setBuf ch v s).cmdl = s.cmdl := rfl
@[simp] theorem setBuf_result (ch : Channel) (v : Byte) (s : State) : (setBuf ch v s).result = s.result := rfl
@[simp] theorem setBuf_busy (ch : Channel) (v : Byte) (s : State) : (setBuf ch v s).busy = s.busy := rfl
@[simp] theorem setBuf_fault (ch : Channel) (v : Byte) (s : State) : (setBuf ch v s).fault = s.fault := rfl
@[simp] theorem setBuf_fcode (ch : Channel) (v : Byte) (s : State) : (setBuf ch v s).fcode = s.fcode := rfl
@[simp] theorem setBuf_slpStart (ch : Channel) (v : Byte) (s : State) : (setBuf ch v s).slpStart = s.slpStart := rfl
@[simp] theorem setBuf_slpRem (ch : Channel) (v : Byte) (s : State) : (setBuf ch v s).slpRem = s.slpRem := rfl
@[simp] theorem setBuf_mode (ch : Channel) (v : Byte) (s : State) : (setBuf ch v s).mode = s.mode := rfl
@[simp] theorem setBuf_buf (ch : Channel) (v : Byte) (s : State) : (setBuf ch v s).buf = chanSet s.buf ch v := rfl
@[simp] theorem setBuf_act (ch : Channel) (v : Byte) (s : State) : (setBuf ch v s).act = s.act := rfl
@[simp] theorem setBuf_pcnt (ch : Channel) (v : Byte) (s : State) : (setBuf ch v s).pcnt = s.pcnt := rfl
@[simp] theorem setBuf_hpc (ch : Channel) (v : Byte) (s : State) : (setBuf ch v s).hpc = s.hpc := rfl
@[simp] theorem setBuf_prog (ch : Channel) (v : Byte) (s : State) : (setBuf ch v s).prog = s.prog := rfl
@[simp] theorem setBuf_hostRead (ch : Channel) (v : Byte) (s : State) : (setBuf ch v s).hostRead = s.hostRead := rfl
@[simp] theorem setBuf_sched (ch : Channel) (v : Byte) (s : State) : (setBuf ch v s).sched = s.sched := rfl
@[simp] theorem setBuf_picks (ch : Channel) (v : Byte) (s : State) : (setBuf ch v s).picks = s.picks := rfl

@[simp] theorem setAct_gie (ch : Channel) (v : Byte) (s : State) : (setAct ch v s).gie = s.gie := rfl
@[simp] theorem setAct_run (ch : Channel) (v : Byte) (s : State) : (setAct ch v s).run = s.run := rfl
@[simp] theorem setAct_tieOvf (ch : Channel) (v : Byte) (s : State) : (setAct ch v s).tieOvf = s.tieOvf := rfl
@[simp] theorem setAct_tieCm (ch : Channel) (v : Byte) (s : State) : (setAct ch v s).tieCm = s.tieCm := rfl
@[simp] theorem setAct_ovfPend (ch : Channel) (v : Byte) (s : State) : (setAct ch v s).ovfPend = s.ovfPend := rfl
@[simp] theorem setAct_cmPend (ch : Channel) (v : Byte) (s : State) : (setAct ch v s).cmPend = s.cmPend := rfl
@[simp] theorem setAct_raw (ch : Channel) (v : Byte) (s : State) : (setAct ch v s).raw = s.raw := rfl
@[simp] theorem setAct_tick (ch : Channel) (v : Byte) (s : State) : (setAct ch v s).tick = s.tick := rfl
@[simp] theorem setAct_ms (ch : Channel) (v : Byte) (s : State) : (setAct ch v s).ms = s.ms := rfl
@[simp] theorem setAct_cmdl (ch : Channel) (v : Byte) (s : State) : (setAct ch v s).cmdl = s.cmdl := rfl
@[simp] theorem setAct_result (ch : Channel) (v : Byte) (s : State) : (setAct ch v s).result = s.result := rfl
@[simp] theorem setAct_busy (ch : Channel) (v : Byte) (s : State) : (setAct ch v s).busy = s.busy := rfl
@[simp] theorem setAct_fault (ch : Channel) (v : Byte) (s : State) : (setAct ch v s).fault = s.fault := rfl
@[simp] theorem setAct_fcode (ch : Channel) (v : Byte) (s : State) : (setAct ch v s).fcode = s.fcode := rfl
@[simp] theorem setAct_slpStart (ch : Channel) (v : Byte) (s : State) : (setAct ch v s).slpStart = s.slpStart := rfl
@[simp] theorem setAct_slpRem (ch : Channel) (v : Byte) (s : State) : (setAct ch v s).slpRem = s.slpRem := rfl
@[simp] theorem setAct_mode (ch : Channel) (v : Byte) (s : State) : (setAct ch v s).mode = s.mode := rfl
@[simp] theorem setAct_buf (ch : Channel) (v : Byte) (s : State) : (setAct ch v s).buf = s.buf := rfl
@[simp] theorem setAct_act (ch : Channel) (v : Byte) (s : State) : (setAct ch v s).act = chanSet s.act ch v := rfl
@[simp] theorem setAct_pcnt (ch : Channel) (v : Byte) (s : State) : (setAct ch v s).pcnt = s.pcnt := rfl
@[simp] theorem setAct_hpc (ch : Channel) (v : Byte) (s : State) : (setAct ch v s).hpc = s.hpc := rfl
@[simp] theorem setAct_prog (ch : Channel) (v : Byte) (s : State) : (setAct ch v s).prog = s.prog := rfl
@[simp] theorem setAct_hostRead (ch : Channel) (v : Byte) (s : State) : (setAct ch v s).hostRead = s.hostRead := rfl
@[simp] theorem setAct_sched (ch : Channel) (v : Byte) (s : State) : (setAct ch v s).sched = s.sched := rfl
@[simp] theorem setAct_picks (ch : Channel) (v : Byte) (s : State) : (setAct ch v s).picks = s.picks := rfl

@[simp] theorem setPcnt_gie (p : Pair) (v : Byte) (s : State) : (setPcnt p v s).gie = s.gie := rfl
@[simp] theorem setPcnt_run (p : Pair) (v : Byte) (s : State) : (setPcnt p v s).run = s.run := rfl
@[simp] theorem setPcnt_tieOvf (p : Pair) (v : Byte) (s : State) : (setPcnt p v s).tieOvf = s.tieOvf := rfl
@[simp] theorem setPcnt_tieCm (p : Pair) (v : Byte) (s : State) : (setPcnt p v s).tieCm = s.tieCm := rfl
@[simp] theorem setPcnt_ovfPend (p : Pair) (v : Byte) (s : State) : (setPcnt p v s).ovfPend = s.ovfPend := rfl
@[simp] theorem setPcnt_cmPend (p : Pair) (v : Byte) (s : State) : (setPcnt p v s).cmPend = s.cmPend := rfl
@[simp] theorem setPcnt_raw (p : Pair) (v : Byte) (s : State) : (setPcnt p v s).raw = s.raw := rfl
@[simp] theorem setPcnt_tick (p : Pair) (v : Byte) (s : State) : (setPcnt p v s).tick = s.tick := rfl
@[simp] theorem setPcnt_ms (p : Pair) (v : Byte) (s : State) : (setPcnt p v s).ms = s.ms := rfl
@[simp] theorem setPcnt_cmdl (p : Pair) (v : Byte) (s : State) : (setPcnt p v s).cmdl = s.cmdl := rfl
@[simp] theorem setPcnt_result (p : Pair) (v : Byte) (s : State) : (setPcnt p v s).result = s.result := rfl
@[simp] theorem setPcnt_busy (p : Pair) (v : Byte) (s : State) : (setPcnt p v s).busy = s.busy := rfl
@[simp] theorem setPcnt_fault (p : Pair) (v : Byte) (s : State) : (setPcnt p v s).fault = s.fault := rfl
@[simp] theorem setPcnt_fcode (p : Pair) (v : Byte) (s : State) : (setPcnt p v s).fcode = s.fcode := rfl
@[simp] theorem setPcnt_slpStart (p : Pair) (v : Byte) (s : State) : (setPcnt p v s).slpStart = s.slpStart := rfl
@[simp] theorem setPcnt_slpRem (p : Pair) (v : Byte) (s : State) : (setPcnt p v s).slpRem = s.slpRem := rfl
@[simp] theorem setPcnt_mode (p : Pair) (v : Byte) (s : State) : (setPcnt p v s).mode = s.mode := rfl
@[simp] theorem setPcnt_buf (p : Pair) (v : Byte) (s : State) : (setPcnt p v s).buf = s.buf := rfl
@[simp] theorem setPcnt_act (p : Pair) (v : Byte) (s : State) : (setPcnt p v s).act = s.act := rfl
@[simp] theorem setPcnt_pcnt (p : Pair) (v : Byte) (s : State) : (setPcnt p v s).pcnt = pairSet s.pcnt p v := rfl
@[simp] theorem setPcnt_hpc (p : Pair) (v : Byte) (s : State) : (setPcnt p v s).hpc = s.hpc := rfl
@[simp] theorem setPcnt_prog (p : Pair) (v : Byte) (s : State) : (setPcnt p v s).prog = s.prog := rfl
@[simp] theorem setPcnt_hostRead (p : Pair) (v : Byte) (s : State) : (setPcnt p v s).hostRead = s.hostRead := rfl
@[simp] theorem setPcnt_sched (p : Pair) (v : Byte) (s : State) : (setPcnt p v s).sched = s.sched := rfl
@[simp] theorem setPcnt_picks (p : Pair) (v : Byte) (s : State) : (setPcnt p v s).picks = s.picks := rfl

@[simp] theorem setResult_gie (v : Word) (s : State) : (setResult v s).gie = s.gie := rfl
@[simp] theorem setResult_run (v : Word) (s : State) : (setResult v s).run = s.run := rfl
@[simp] theorem setResult_tieOvf (v : Word) (s : State) : (setResult v s).tieOvf = s.tieOvf := rfl
@[simp] theorem setResult_tieCm (v : Word) (s : State) : (setResult v s).tieCm = s.tieCm := rfl
@[simp] theorem setResult_ovfPend (v : Word) (s : State) : (setResult v s).ovfPend = s.ovfPend := rfl
@[simp] theorem setResult_cmPend (v : Word) (s : State) : (setResult v s).cmPend = s.cmPend := rfl
@[simp] theorem setResult_raw (v : Word) (s : State) : (setResult v s).raw = s.raw := rfl
@[simp] theorem setResult_tick (v : Word) (s : State) : (setResult v s).tick = s.tick := rfl
@[simp] theorem setResult_ms (v : Word) (s : State) : (setResult v s).ms = s.ms := rfl
@[simp] theorem setResult_cmdl (v : Word) (s : State) : (setResult v s).cmdl = s.cmdl := rfl
@[simp] theorem setResult_result (v : Word) (s : State) : (setResult v s).result = v := rfl
@[simp] theorem setResult_busy (v : Word) (s : State) : (setResult v s).busy = s.busy := rfl
@[simp] theorem setResult_fault (v : Word) (s : State) : (setResult v s).fault = s.fault := rfl
@[simp] theorem setResult_fcode (v : Word) (s : State) : (setResult v s).fcode = s.fcode := rfl
@[simp] theorem setResult_slpStart (v : Word) (s : State) : (setResult v s).slpStart = s.slpStart := rfl
@[simp] theorem setResult_slpRem (v : Word) (s : State) : (setResult v s).slpRem = s.slpRem := rfl
@[simp] theorem setResult_mode (v : Word) (s : State) : (setResult v s).mode = s.mode := rfl
@[simp] theorem setResult_buf (v : Word) (s : State) : (setResult v s).buf = s.buf := rfl
@[simp] theorem setResult_act (v : Word) (s : State) : (setResult v s).act = s.act := rfl
@[simp] theorem setResult_pcnt (v : Word) (s : State) : (setResult v s).pcnt = s.pcnt := rfl
@[simp] theorem setResult_hpc (v : Word) (s : State) : (setResult v s).hpc = s.hpc := rfl
@[simp] theorem setResult_prog (v : Word) (s : State) : (setResult v s).prog = s.prog := rfl
@[simp] theorem setResult_hostRead (v : Word) (s : State) : (setResult v s).hostRead = s.hostRead := rfl
@[simp] theorem setResult_sched (v : Word) (s : State) : (setResult v s).sched = s.sched := rfl
@[simp] theorem setResult_picks (v : Word) (s : State) : (setResult v s).picks = s.picks := rfl

@[simp] theorem setGie_gie (v : Bool) (s : State) : (setGie v s).gie = v := rfl
@[simp] theorem setGie_run (v : Bool) (s : State) : (setGie v s).run = s.run := rfl
@[simp] theorem setGie_tieOvf (v : Bool) (s : State) : (setGie v s).tieOvf = s.tieOvf := rfl
@[simp] theorem setGie_tieCm (v : Bool) (s : State) : (setGie v s).tieCm = s.tieCm := rfl
@[simp] theorem setGie_ovfPend (v : Bool) (s : State) : (setGie v s).ovfPend = s.ovfPend := rfl
@[simp] theorem setGie_cmPend (v : Bool) (s : State) : (setGie v s).cmPend = s.cmPend := rfl
@[simp] theorem setGie_raw (v : Bool) (s : State) : (setGie v s).raw = s.raw := rfl
@[simp] theorem setGie_tick (v : Bool) (s : State) : (setGie v s).tick = s.tick := rfl
@[simp] theorem setGie_ms (v : Bool) (s : State) : (setGie v s).ms = s.ms := rfl
@[simp] theorem setGie_cmdl (v : Bool) (s : State) : (setGie v s).cmdl = s.cmdl := rfl
@[simp] theorem setGie_result (v : Bool) (s : State) : (setGie v s).result = s.result := rfl
@[simp] theorem setGie_busy (v : Bool) (s : State) : (setGie v s).busy = s.busy := rfl
@[simp] theorem setGie_fault (v : Bool) (s : State) : (setGie v s).fault = s.fault := rfl
@[simp] theorem setGie_fcode (v : Bool) (s : State) : (setGie v s).fcode = s.fcode := rfl
@[simp] theorem setGie_slpStart (v : Bool) (s : State) : (setGie v s).slpStart = s.slpStart := rfl
@[simp] theorem setGie_slpRem (v : Bool) (s : State) : (setGie v s).slpRem = s.slpRem := rfl
@[simp] theorem setGie_mode (v : Bool) (s : State) : (setGie v s).mode = s.mode := rfl
@[simp] theorem setGie_buf (v : Bool) (s : State) : (setGie v s).buf = s.buf := rfl
@[simp] theorem setGie_act (v : Bool) (s : State) : (setGie v s).act = s.act := rfl
@[simp] theorem setGie_pcnt (v : Bool) (s : State) : (setGie v s).pcnt = s.pcnt := rfl
@[simp] theorem setGie_hpc (v : Bool) (s : State) : (setGie v s).hpc = s.hpc := rfl
@[simp] theorem setGie_prog (v : Bool) (s : State) : (setGie v s).prog = s.prog := rfl
@[simp] theorem setGie_hostRead (v : Bool) (s : State) : (setGie v s).hostRead = s.hostRead := rfl
@[simp] theorem setGie_sched (v : Bool) (s : State) : (setGie v s).sched = s.sched := rfl
@[simp] theorem setGie_picks (v : Bool) (s : State) : (setGie v s).picks = s.picks := rfl

@[simp] theorem raiseFault_gie (c : FaultCode) (s : State) : (raiseFault c s).gie = s.gie := rfl
@[simp] theorem raiseFault_run (c : FaultCode) (s : State) : (raiseFault c s).run = s.run := rfl
@[simp] theorem raiseFault_tieOvf (c : FaultCode) (s : State) : (raiseFault c s).tieOvf = s.tieOvf := rfl
@[simp] theorem raiseFault_tieCm (c : FaultCode) (s : State) : (raiseFault c s).tieCm = s.tieCm := rfl
@[simp] theorem raiseFault_ovfPend (c : FaultCode) (s : State) : (raiseFault c s).ovfPend = s.ovfPend := rfl
@[simp] theorem raiseFault_cmPend (c : FaultCode) (s : State) : (raiseFault c s).cmPend = s.cmPend := rfl
@[simp] theorem raiseFault_raw (c : FaultCode) (s : State) : (raiseFault c s).raw = s.raw := rfl
@[simp] theorem raiseFault_tick (c : FaultCode) (s : State) : (raiseFault c s).tick = s.tick := rfl
@[simp] theorem raiseFault_ms (c : FaultCode) (s : State) : (raiseFault c s).ms = s.ms := rfl
@[simp] theorem raiseFault_cmdl (c : FaultCode) (s : State) : (raiseFault c s).cmdl = s.cmdl := rfl
@[simp] theorem raiseFault_result (c : FaultCode) (s : State) : (raiseFault c s).result = s.result := rfl
@[simp] theorem raiseFault_busy (c : FaultCode) (s : State) : (raiseFault c s).busy = s.busy := rfl
@[simp] theorem raiseFault_fault (c : FaultCode) (s : State) : (raiseFault c s).fault = true := rfl
@[simp] theorem raiseFault_fcode (c : FaultCode) (s : State) : (raiseFault c s).fcode = faultByte c := rfl
@[simp] theorem raiseFault_slpStart (c : FaultCode) (s : State) : (raiseFault c s).slpStart = s.slpStart := rfl
@[simp] theorem raiseFault_slpRem (c : FaultCode) (s : State) : (raiseFault c s).slpRem = s.slpRem := rfl
@[simp] theorem raiseFault_mode (c : FaultCode) (s : State) : (raiseFault c s).mode = s.mode := rfl
@[simp] theorem raiseFault_buf (c : FaultCode) (s : State) : (raiseFault c s).buf = s.buf := rfl
@[simp] theorem raiseFault_act (c : FaultCode) (s : State) : (raiseFault c s).act = s.act := rfl
@[simp] theorem raiseFault_pcnt (c : FaultCode) (s : State) : (raiseFault c s).pcnt = s.pcnt := rfl
@[simp] theorem raiseFault_hpc (c : FaultCode) (s : State) : (raiseFault c s).hpc = s.hpc := rfl
@[simp] theorem raiseFault_prog (c : FaultCode) (s : State) : (raiseFault c s).prog = s.prog := rfl
@[simp] theorem raiseFault_hostRead (c : FaultCode) (s : State) : (raiseFault c s).hostRead = s.hostRead := rfl
@[simp] theorem raiseFault_sched (c : FaultCode) (s : State) : (raiseFault c s).sched = s.sched := rfl
@[simp] theorem raiseFault_picks (c : FaultCode) (s : State) : (raiseFault c s).picks = s.picks := rfl

@[simp] theorem setLatches_gie (c : CmdLatches) (s : State) : (setLatches c s).gie = s.gie := rfl
@[simp] theorem setLatches_run (c : CmdLatches) (s : State) : (setLatches c s).run = s.run := rfl
@[simp] theorem setLatches_tieOvf (c : CmdLatches) (s : State) : (setLatches c s).tieOvf = s.tieOvf := rfl
@[simp] theorem setLatches_tieCm (c : CmdLatches) (s : State) : (setLatches c s).tieCm = s.tieCm := rfl
@[simp] theorem setLatches_ovfPend (c : CmdLatches) (s : State) : (setLatches c s).ovfPend = s.ovfPend := rfl
@[simp] theorem setLatches_cmPend (c : CmdLatches) (s : State) : (setLatches c s).cmPend = s.cmPend := rfl
@[simp] theorem setLatches_raw (c : CmdLatches) (s : State) : (setLatches c s).raw = s.raw := rfl
@[simp] theorem setLatches_tick (c : CmdLatches) (s : State) : (setLatches c s).tick = s.tick := rfl
@[simp] theorem setLatches_ms (c : CmdLatches) (s : State) : (setLatches c s).ms = s.ms := rfl
@[simp] theorem setLatches_cmdl (c : CmdLatches) (s : State) : (setLatches c s).cmdl = c := rfl
@[simp] theorem setLatches_result (c : CmdLatches) (s : State) : (setLatches c s).result = s.result := rfl
@[simp] theorem setLatches_busy (c : CmdLatches) (s : State) : (setLatches c s).busy = s.busy := rfl
@[simp] theorem setLatches_fault (c : CmdLatches) (s : State) : (setLatches c s).fault = s.fault := rfl
@[simp] theorem setLatches_fcode (c : CmdLatches) (s : State) : (setLatches c s).fcode = s.fcode := rfl
@[simp] theorem setLatches_slpStart (c : CmdLatches) (s : State) : (setLatches c s).slpStart = s.slpStart := rfl
@[simp] theorem setLatches_slpRem (c : CmdLatches) (s : State) : (setLatches c s).slpRem = s.slpRem := rfl
@[simp] theorem setLatches_mode (c : CmdLatches) (s : State) : (setLatches c s).mode = s.mode := rfl
@[simp] theorem setLatches_buf (c : CmdLatches) (s : State) : (setLatches c s).buf = s.buf := rfl
@[simp] theorem setLatches_act (c : CmdLatches) (s : State) : (setLatches c s).act = s.act := rfl
@[simp] theorem setLatches_pcnt (c : CmdLatches) (s : State) : (setLatches c s).pcnt = s.pcnt := rfl
@[simp] theorem setLatches_hpc (c : CmdLatches) (s : State) : (setLatches c s).hpc = s.hpc := rfl
@[simp] theorem setLatches_prog (c : CmdLatches) (s : State) : (setLatches c s).prog = s.prog := rfl
@[simp] theorem setLatches_hostRead (c : CmdLatches) (s : State) : (setLatches c s).hostRead = s.hostRead := rfl
@[simp] theorem setLatches_sched (c : CmdLatches) (s : State) : (setLatches c s).sched = s.sched := rfl
@[simp] theorem setLatches_picks (c : CmdLatches) (s : State) : (setLatches c s).picks = s.picks := rfl

@[simp] theorem bumpHpc_gie (s : State) : (bumpHpc s).gie = s.gie := rfl
@[simp] theorem bumpHpc_run (s : State) : (bumpHpc s).run = s.run := rfl
@[simp] theorem bumpHpc_tieOvf (s : State) : (bumpHpc s).tieOvf = s.tieOvf := rfl
@[simp] theorem bumpHpc_tieCm (s : State) : (bumpHpc s).tieCm = s.tieCm := rfl
@[simp] theorem bumpHpc_ovfPend (s : State) : (bumpHpc s).ovfPend = s.ovfPend := rfl
@[simp] theorem bumpHpc_cmPend (s : State) : (bumpHpc s).cmPend = s.cmPend := rfl
@[simp] theorem bumpHpc_raw (s : State) : (bumpHpc s).raw = s.raw := rfl
@[simp] theorem bumpHpc_tick (s : State) : (bumpHpc s).tick = s.tick := rfl
@[simp] theorem bumpHpc_ms (s : State) : (bumpHpc s).ms = s.ms := rfl
@[simp] theorem bumpHpc_cmdl (s : State) : (bumpHpc s).cmdl = s.cmdl := rfl
@[simp] theorem bumpHpc_result (s : State) : (bumpHpc s).result = s.result := rfl
@[simp] theorem bumpHpc_busy (s : State) : (bumpHpc s).busy = s.busy := rfl
@[simp] theorem bumpHpc_fault (s : State) : (bumpHpc s).fault = s.fault := rfl
@[simp] theorem bumpHpc_fcode (s : State) : (bumpHpc s).fcode = s.fcode := rfl
@[simp] theorem bumpHpc_slpStart (s : State) : (bumpHpc s).slpStart = s.slpStart := rfl
@[simp] theorem bumpHpc_slpRem (s : State) : (bumpHpc s).slpRem = s.slpRem := rfl
@[simp] theorem bumpHpc_mode (s : State) : (bumpHpc s).mode = s.mode := rfl
@[simp] theorem bumpHpc_buf (s : State) : (bumpHpc s).buf = s.buf := rfl
@[simp] theorem bumpHpc_act (s : State) : (bumpHpc s).act = s.act := rfl
@[simp] theorem bumpHpc_pcnt (s : State) : (bumpHpc s).pcnt = s.pcnt := rfl
@[simp] theorem bumpHpc_hpc (s : State) : (bumpHpc s).hpc = s.hpc + 1 := rfl
@[simp] theorem bumpHpc_prog (s : State) : (bumpHpc s).prog = s.prog := rfl
@[simp] theorem bumpHpc_hostRead (s : State) : (bumpHpc s).hostRead = s.hostRead := rfl
@[simp] theorem bumpHpc_sched (s : State) : (bumpHpc s).sched = s.sched := rfl
@[simp] theorem bumpHpc_picks (s : State) : (bumpHpc s).picks = s.picks := rfl

@[simp] theorem startClock_gie (s : State) : (startClock s).gie = true := rfl
@[simp] theorem startClock_run (s : State) : (startClock s).run = true := rfl
@[simp] theorem startClock_tieOvf (s : State) : (startClock s).tieOvf = true := rfl
@[simp] theorem startClock_tieCm (s : State) : (startClock s).tieCm = true := rfl
@[simp] theorem startClock_ovfPend (s : State) : (startClock s).ovfPend = false := rfl
@[simp] theorem startClock_cmPend (s : State) : (startClock s).cmPend = false := rfl
@[simp] theorem startClock_raw (s : State) : (startClock s).raw = 0 := rfl
@[simp] theorem startClock_tick (s : State) : (startClock s).tick = 0 := rfl
@[simp] theorem startClock_ms (s : State) : (startClock s).ms = 0 := rfl
@[simp] theorem startClock_cmdl (s : State) : (startClock s).cmdl = s.cmdl := rfl
@[simp] theorem startClock_result (s : State) : (startClock s).result = s.result := rfl
@[simp] theorem startClock_busy (s : State) : (startClock s).busy = s.busy := rfl
@[simp] theorem startClock_fault (s : State) : (startClock s).fault = s.fault := rfl
@[simp] theorem startClock_fcode (s : State) : (startClock s).fcode = s.fcode := rfl
@[simp] theorem startClock_slpStart (s : State) : (startClock s).slpStart = s.slpStart := rfl
@[simp] theorem startClock_slpRem (s : State) : (startClock s).slpRem = s.slpRem := rfl
@[simp] theorem startClock_mode (s : State) : (startClock s).mode = s.mode := rfl
@[simp] theorem startClock_buf (s : State) : (startClock s).buf = s.buf := rfl
@[simp] theorem startClock_act (s : State) : (startClock s).act = s.act := rfl
@[simp] theorem startClock_pcnt (s : State) : (startClock s).pcnt = s.pcnt := rfl
@[simp] theorem startClock_hpc (s : State) : (startClock s).hpc = s.hpc := rfl
@[simp] theorem startClock_prog (s : State) : (startClock s).prog = s.prog := rfl
@[simp] theorem startClock_hostRead (s : State) : (startClock s).hostRead = s.hostRead := rfl
@[simp] theorem startClock_sched (s : State) : (startClock s).sched = s.sched := rfl
@[simp] theorem startClock_picks (s : State) : (startClock s).picks = s.picks := rfl

@[simp] theorem beginSleep_gie (dur : Nat) (s : State) : (beginSleep dur s).gie = s.gie := rfl
@[simp] theorem beginSleep_run (dur : Nat) (s : State) : (beginSleep dur s).run = s.run := rfl
@[simp] theorem beginSleep_tieOvf (dur : Nat) (s : State) : (beginSleep dur s).tieOvf = s.tieOvf := rfl
@[simp] theorem beginSleep_tieCm (dur : Nat) (s : State) : (beginSleep dur s).tieCm = s.tieCm := rfl
@[simp] theorem beginSleep_ovfPend (dur : Nat) (s : State) : (beginSleep dur s).ovfPend = s.ovfPend := rfl
@[simp] theorem beginSleep_cmPend (dur : Nat) (s : State) : (beginSleep dur s).cmPend = s.cmPend := rfl
@[simp] theorem beginSleep_raw (dur : Nat) (s : State) : (beginSleep dur s).raw = s.raw := rfl
@[simp] theorem beginSleep_tick (dur : Nat) (s : State) : (beginSleep dur s).tick = s.tick := rfl
@[simp] theorem beginSleep_ms (dur : Nat) (s : State) : (beginSleep dur s).ms = s.ms := rfl
@[simp] theorem beginSleep_cmdl (dur : Nat) (s : State) : (beginSleep dur s).cmdl = s.cmdl := rfl
@[simp] theorem beginSleep_result (dur : Nat) (s : State) : (beginSleep dur s).result = s.result := rfl
@[simp] theorem beginSleep_busy (dur : Nat) (s : State) : (beginSleep dur s).busy = decide (dur ≠ 0) := rfl
@[simp] theorem beginSleep_fault (dur : Nat) (s : State) : (beginSleep dur s).fault = s.fault := rfl
@[simp] theorem beginSleep_fcode (dur : Nat) (s : State) : (beginSleep dur s).fcode = s.fcode := rfl
@[simp] theorem beginSleep_slpStart (dur : Nat) (s : State) : (beginSleep dur s).slpStart = usNow s := rfl
@[simp] theorem beginSleep_slpRem (dur : Nat) (s : State) : (beginSleep dur s).slpRem = BitVec.ofNat 24 dur := rfl
@[simp] theorem beginSleep_mode (dur : Nat) (s : State) : (beginSleep dur s).mode = s.mode := rfl
@[simp] theorem beginSleep_buf (dur : Nat) (s : State) : (beginSleep dur s).buf = s.buf := rfl
@[simp] theorem beginSleep_act (dur : Nat) (s : State) : (beginSleep dur s).act = s.act := rfl
@[simp] theorem beginSleep_pcnt (dur : Nat) (s : State) : (beginSleep dur s).pcnt = s.pcnt := rfl
@[simp] theorem beginSleep_hpc (dur : Nat) (s : State) : (beginSleep dur s).hpc = s.hpc := rfl
@[simp] theorem beginSleep_prog (dur : Nat) (s : State) : (beginSleep dur s).prog = s.prog := rfl
@[simp] theorem beginSleep_hostRead (dur : Nat) (s : State) : (beginSleep dur s).hostRead = s.hostRead := rfl
@[simp] theorem beginSleep_sched (dur : Nat) (s : State) : (beginSleep dur s).sched = s.sched := rfl
@[simp] theorem beginSleep_picks (dur : Nat) (s : State) : (beginSleep dur s).picks = s.picks := rfl

@[simp] theorem rawStep_gie (s : State) : (rawStep s).gie = s.gie := rfl
@[simp] theorem rawStep_run (s : State) : (rawStep s).run = s.run := rfl
@[simp] theorem rawStep_tieOvf (s : State) : (rawStep s).tieOvf = s.tieOvf := rfl
@[simp] theorem rawStep_tieCm (s : State) : (rawStep s).tieCm = s.tieCm := rfl
@[simp] theorem rawStep_ovfPend (s : State) : (rawStep s).ovfPend = (s.ovfPend || decide (s.raw + 1 = 0)) := rfl
@[simp] theorem rawStep_cmPend (s : State) : (rawStep s).cmPend = s.cmPend := rfl
@[simp] theorem rawStep_raw (s : State) : (rawStep s).raw = s.raw + 1 := rfl
@[simp] theorem rawStep_tick (s : State) : (rawStep s).tick = s.tick := rfl
@[simp] theorem rawStep_ms (s : State) : (rawStep s).ms = s.ms := rfl
@[simp] theorem rawStep_cmdl (s : State) : (rawStep s).cmdl = s.cmdl := rfl
@[simp] theorem rawStep_result (s : State) : (rawStep s).result = s.result := rfl
@[simp] theorem rawStep_busy (s : State) : (rawStep s).busy = s.busy := rfl
@[simp] theorem rawStep_fault (s : State) : (rawStep s).fault = s.fault := rfl
@[simp] theorem rawStep_fcode (s : State) : (rawStep s).fcode = s.fcode := rfl
@[simp] theorem rawStep_slpStart (s : State) : (rawStep s).slpStart = s.slpStart := rfl
@[simp] theorem rawStep_slpRem (s : State) : (rawStep s).slpRem = s.slpRem := rfl
@[simp] theorem rawStep_mode (s : State) : (rawStep s).mode = s.mode := rfl
@[simp] theorem rawStep_buf (s : State) : (rawStep s).buf = s.buf := rfl
@[simp] theorem rawStep_act (s : State) : (rawStep s).act = s.act := rfl
@[simp] theorem rawStep_pcnt (s : State) : (rawStep s).pcnt = s.pcnt := rfl
@[simp] theorem rawStep_hpc (s : State) : (rawStep s).hpc = s.hpc := rfl
@[simp] theorem rawStep_prog (s : State) : (rawStep s).prog = s.prog := rfl
@[simp] theorem rawStep_hostRead (s : State) : (rawStep s).hostRead = s.hostRead := rfl
@[simp] theorem rawStep_sched (s : State) : (rawStep s).sched = s.sched := rfl
@[simp] theorem rawStep_picks (s : State) : (rawStep s).picks = s.picks := rfl

@[simp] theorem cmEvent_gie (s : State) : (cmEvent s).gie = s.gie := rfl
@[simp] theorem cmEvent_run (s : State) : (cmEvent s).run = s.run := rfl
@[simp] theorem cmEvent_tieOvf (s : State) : (cmEvent s).tieOvf = s.tieOvf := rfl
@[simp] theorem cmEvent_tieCm (s : State) : (cmEvent s).tieCm = s.tieCm := rfl
@[simp] theorem cmEvent_ovfPend (s : State) : (cmEvent s).ovfPend = s.ovfPend := rfl
@[simp] theorem cmEvent_cmPend (s : State) : (cmEvent s).cmPend = true := rfl
@[simp] theorem cmEvent_raw (s : State) : (cmEvent s).raw = s.raw := rfl
@[simp] theorem cmEvent_tick (s : State) : (cmEvent s).tick = s.tick := rfl
@[simp] theorem cmEvent_ms (s : State) : (cmEvent s).ms = s.ms := rfl
@[simp] theorem cmEvent_cmdl (s : State) : (cmEvent s).cmdl = s.cmdl := rfl
@[simp] theorem cmEvent_result (s : State) : (cmEvent s).result = s.result := rfl
@[simp] theorem cmEvent_busy (s : State) : (cmEvent s).busy = s.busy := rfl
@[simp] theorem cmEvent_fault (s : State) : (cmEvent s).fault = s.fault := rfl
@[simp] theorem cmEvent_fcode (s : State) : (cmEvent s).fcode = s.fcode := rfl
@[simp] theorem cmEvent_slpStart (s : State) : (cmEvent s).slpStart = s.slpStart := rfl
@[simp] theorem cmEvent_slpRem (s : State) : (cmEvent s).slpRem = s.slpRem := rfl
@[simp] theorem cmEvent_mode (s : State) : (cmEvent s).mode = s.mode := rfl
@[simp] theorem cmEvent_buf (s : State) : (cmEvent s).buf = s.buf := rfl
@[simp] theorem cmEvent_act (s : State) : (cmEvent s).act = s.act := rfl
@[simp] theorem cmEvent_pcnt (s : State) : (cmEvent s).pcnt = s.pcnt := rfl
@[simp] theorem cmEvent_hpc (s : State) : (cmEvent s).hpc = s.hpc := rfl
@[simp] theorem cmEvent_prog (s : State) : (cmEvent s).prog = s.prog := rfl
@[simp] theorem cmEvent_hostRead (s : State) : (cmEvent s).hostRead = s.hostRead := rfl
@[simp] theorem cmEvent_sched (s : State) : (cmEvent s).sched = s.sched := rfl
@[simp] theorem cmEvent_picks (s : State) : (cmEvent s).picks = s.picks := rfl

@[simp] theorem isrOvf_gie (s : State) : (isrOvf s).gie = s.gie := rfl
@[simp] theorem isrOvf_run (s : State) : (isrOvf s).run = s.run := rfl
@[simp] theorem isrOvf_tieOvf (s : State) : (isrOvf s).tieOvf = s.tieOvf := rfl
@[simp] theorem isrOvf_tieCm (s : State) : (isrOvf s).tieCm = s.tieCm := rfl
@[simp] theorem isrOvf_ovfPend (s : State) : (isrOvf s).ovfPend = false := rfl
@[simp] theorem isrOvf_cmPend (s : State) : (isrOvf s).cmPend = s.cmPend := rfl
@[simp] theorem isrOvf_raw (s : State) : (isrOvf s).raw = s.raw := rfl
@[simp] theorem isrOvf_tick (s : State) : (isrOvf s).tick = s.tick + 1 := rfl
@[simp] theorem isrOvf_ms (s : State) : (isrOvf s).ms = s.ms := rfl
@[simp] theorem isrOvf_cmdl (s : State) : (isrOvf s).cmdl = s.cmdl := rfl
@[simp] theorem isrOvf_result (s : State) : (isrOvf s).result = s.result := rfl
@[simp] theorem isrOvf_busy (s : State) : (isrOvf s).busy = s.busy := rfl
@[simp] theorem isrOvf_fault (s : State) : (isrOvf s).fault = s.fault := rfl
@[simp] theorem isrOvf_fcode (s : State) : (isrOvf s).fcode = s.fcode := rfl
@[simp] theorem isrOvf_slpStart (s : State) : (isrOvf s).slpStart = s.slpStart := rfl
@[simp] theorem isrOvf_slpRem (s : State) : (isrOvf s).slpRem = s.slpRem := rfl
@[simp] theorem isrOvf_mode (s : State) : (isrOvf s).mode = s.mode := rfl
@[simp] theorem isrOvf_buf (s : State) : (isrOvf s).buf = s.buf := rfl
@[simp] theorem isrOvf_act (s : State) : (isrOvf s).act = s.act := rfl
@[simp] theorem isrOvf_pcnt (s : State) : (isrOvf s).pcnt = s.pcnt := rfl
@[simp] theorem isrOvf_hpc (s : State) : (isrOvf s).hpc = s.hpc := rfl
@[simp] theorem isrOvf_prog (s : State) : (isrOvf s).prog = s.prog := rfl
@[simp] theorem isrOvf_hostRead (s : State) : (isrOvf s).hostRead = s.hostRead := rfl
@[simp] theorem isrOvf_sched (s : State) : (isrOvf s).sched = s.sched := rfl
@[simp] theorem isrOvf_picks (s : State) : (isrOvf s).picks = s.picks := rfl

@[simp] theorem isrCm_gie (s : State) : (isrCm s).gie = s.gie := rfl
@[simp] theorem isrCm_run (s : State) : (isrCm s).run = s.run := rfl
@[simp] theorem isrCm_tieOvf (s : State) : (isrCm s).tieOvf = s.tieOvf := rfl
@[simp] theorem isrCm_tieCm (s : State) : (isrCm s).tieCm = s.tieCm := rfl
@[simp] theorem isrCm_ovfPend (s : State) : (isrCm s).ovfPend = s.ovfPend := rfl
@[simp] theorem isrCm_cmPend (s : State) : (isrCm s).cmPend = false := rfl
@[simp] theorem isrCm_raw (s : State) : (isrCm s).raw = s.raw := rfl
@[simp] theorem isrCm_tick (s : State) : (isrCm s).tick = s.tick := rfl
@[simp] theorem isrCm_ms (s : State) : (isrCm s).ms = s.ms + 1 := rfl
@[simp] theorem isrCm_cmdl (s : State) : (isrCm s).cmdl = s.cmdl := rfl
@[simp] theorem isrCm_result (s : State) : (isrCm s).result = s.result := rfl
@[simp] theorem isrCm_busy (s : State) : (isrCm s).busy = s.busy := rfl
@[simp] theorem isrCm_fault (s : State) : (isrCm s).fault = s.fault := rfl
@[simp] theorem isrCm_fcode (s : State) : (isrCm s).fcode = s.fcode := rfl
@[simp] theorem isrCm_slpStart (s : State) : (isrCm s).slpStart = s.slpStart := rfl
@[simp] theorem isrCm_slpRem (s : State) : (isrCm s).slpRem = s.slpRem := rfl
@[simp] theorem isrCm_mode (s : State) : (isrCm s).mode = s.mode := rfl
@[simp] theorem isrCm_buf (s : State) : (isrCm s).buf = s.buf := rfl
@[simp] theorem isrCm_act (s : State) : (isrCm s).act = s.act := rfl
@[simp] theorem isrCm_pcnt (s : State) : (isrCm s).pcnt = s.pcnt := rfl
@[simp] theorem isrCm_hpc (s : State) : (isrCm s).hpc = s.hpc := rfl
@[simp] theorem isrCm_prog (s : State) : (isrCm s).prog = s.prog := rfl
@[simp] theorem isrCm_hostRead (s : State) : (isrCm s).hostRead = s.hostRead := rfl
@[simp] theorem isrCm_sched (s : State) : (isrCm s).sched = s.sched := rfl
@[simp] theorem isrCm_picks (s : State) : (isrCm s).picks = s.picks := rfl

@[simp] theorem sleeperStep_gie (s : State) : (sleeperStep s).gie = s.gie := rfl
@[simp] theorem sleeperStep_run (s : State) : (sleeperStep s).run = s.run := rfl
@[simp] theorem sleeperStep_tieOvf (s : State) : (sleeperStep s).tieOvf = s.tieOvf := rfl
@[simp] theorem sleeperStep_tieCm (s : State) : (sleeperStep s).tieCm = s.tieCm := rfl
@[simp] theorem sleeperStep_ovfPend (s : State) : (sleeperStep s).ovfPend = s.ovfPend := rfl
@[simp] theorem sleeperStep_cmPend (s : State) : (sleeperStep s).cmPend = s.cmPend := rfl
@[simp] theorem sleeperStep_raw (s : State) : (sleeperStep s).raw = s.raw := rfl
@[simp] theorem sleeperStep_tick (s : State) : (sleeperStep s).tick = s.tick := rfl
@[simp] theorem sleeperStep_ms (s : State) : (sleeperStep s).ms = s.ms := rfl
@[simp] theorem sleeperStep_cmdl (s : State) : (sleeperStep s).cmdl = s.cmdl := rfl
@[simp] theorem sleeperStep_result (s : State) : (sleeperStep s).result = s.result := rfl
@[simp] theorem sleeperStep_busy (s : State) : (sleeperStep s).busy = (s.busy && decide (s.slpRem - 1 ≠ 0)) := rfl
@[simp] theorem sleeperStep_fault (s : State) : (sleeperStep s).fault = s.fault := rfl
@[simp] theorem sleeperStep_fcode (s : State) : (sleeperStep s).fcode = s.fcode := rfl
@[simp] theorem sleeperStep_slpStart (s : State) : (sleeperStep s).slpStart = s.slpStart + BitVec.ofNat 32 Config.sleepStepUs := rfl
@[simp] theorem sleeperStep_slpRem (s : State) : (sleeperStep s).slpRem = s.slpRem - 1 := rfl
@[simp] theorem sleeperStep_mode (s : State) : (sleeperStep s).mode = s.mode := rfl
@[simp] theorem sleeperStep_buf (s : State) : (sleeperStep s).buf = s.buf := rfl
@[simp] theorem sleeperStep_act (s : State) : (sleeperStep s).act = s.act := rfl
@[simp] theorem sleeperStep_pcnt (s : State) : (sleeperStep s).pcnt = s.pcnt := rfl
@[simp] theorem sleeperStep_hpc (s : State) : (sleeperStep s).hpc = s.hpc := rfl
@[simp] theorem sleeperStep_prog (s : State) : (sleeperStep s).prog = s.prog := rfl
@[simp] theorem sleeperStep_hostRead (s : State) : (sleeperStep s).hostRead = s.hostRead := rfl
@[simp] theorem sleeperStep_sched (s : State) : (sleeperStep s).sched = s.sched := rfl
@[simp] theorem sleeperStep_picks (s : State) : (sleeperStep s).picks = s.picks := rfl

@[simp] theorem loadActive_gie (p : Pair) (s : State) : (loadActive p s).gie = s.gie := rfl
@[simp] theorem loadActive_run (p : Pair) (s : State) : (loadActive p s).run = s.run := rfl
@[simp] theorem loadActive_tieOvf (p : Pair) (s : State) : (loadActive p s).tieOvf = s.tieOvf := rfl
@[simp] theorem loadActive_tieCm (p : Pair) (s : State) : (loadActive p s).tieCm = s.tieCm := rfl
@[simp] theorem loadActive_ovfPend (p : Pair) (s : State) : (loadActive p s).ovfPend = s.ovfPend := rfl
@[simp] theorem loadActive_cmPend (p : Pair) (s : State) : (loadActive p s).cmPend = s.cmPend := rfl
@[simp] theorem loadActive_raw (p : Pair) (s : State) : (loadActive p s).raw = s.raw := rfl
@[simp] theorem loadActive_tick (p : Pair) (s : State) : (loadActive p s).tick = s.tick := rfl
@[simp] theorem loadActive_ms (p : Pair) (s : State) : (loadActive p s).ms = s.ms := rfl
@[simp] theorem loadActive_cmdl (p : Pair) (s : State) : (loadActive p s).cmdl = s.cmdl := rfl
@[simp] theorem loadActive_result (p : Pair) (s : State) : (loadActive p s).result = s.result := rfl
@[simp] theorem loadActive_busy (p : Pair) (s : State) : (loadActive p s).busy = s.busy := rfl
@[simp] theorem loadActive_fault (p : Pair) (s : State) : (loadActive p s).fault = s.fault := rfl
@[simp] theorem loadActive_fcode (p : Pair) (s : State) : (loadActive p s).fcode = s.fcode := rfl
@[simp] theorem loadActive_slpStart (p : Pair) (s : State) : (loadActive p s).slpStart = s.slpStart := rfl
@[simp] theorem loadActive_slpRem (p : Pair) (s : State) : (loadActive p s).slpRem = s.slpRem := rfl
@[simp] theorem loadActive_mode (p : Pair) (s : State) : (loadActive p s).mode = s.mode := rfl
@[simp] theorem loadActive_buf (p : Pair) (s : State) : (loadActive p s).buf = s.buf := rfl
@[simp] theorem loadActive_act (p : Pair) (s : State) : (loadActive p s).act = chanSet (chanSet s.act ⟨p, .A⟩ (chanGet s.buf ⟨p, .A⟩)) ⟨p, .B⟩ (chanGet s.buf ⟨p, .B⟩) := rfl
@[simp] theorem loadActive_pcnt (p : Pair) (s : State) : (loadActive p s).pcnt = s.pcnt := rfl
@[simp] theorem loadActive_hpc (p : Pair) (s : State) : (loadActive p s).hpc = s.hpc := rfl
@[simp] theorem loadActive_prog (p : Pair) (s : State) : (loadActive p s).prog = s.prog := rfl
@[simp] theorem loadActive_hostRead (p : Pair) (s : State) : (loadActive p s).hostRead = s.hostRead := rfl
@[simp] theorem loadActive_sched (p : Pair) (s : State) : (loadActive p s).sched = s.sched := rfl
@[simp] theorem loadActive_picks (p : Pair) (s : State) : (loadActive p s).picks = s.picks := rfl

@[simp] theorem resetUnit_gie (s : State) : (resetUnit s).gie = false := rfl
@[simp] theorem resetUnit_run (s : State) : (resetUnit s).run = false := rfl
@[simp] theorem resetUnit_tieOvf (s : State) : (resetUnit s).tieOvf = false := rfl
@[simp] theorem resetUnit_tieCm (s : State) : (resetUnit s).tieCm = false := rfl
@[simp] theorem resetUnit_ovfPend (s : State) : (resetUnit s).ovfPend = false := rfl
@[simp] theorem resetUnit_cmPend (s : State) : (resetUnit s).cmPend = false := rfl
@[simp] theorem resetUnit_raw (s : State) : (resetUnit s).raw = 0 := rfl
@[simp] theorem resetUnit_tick (s : State) : (resetUnit s).tick = 0 := rfl
@[simp] theorem resetUnit_ms (s : State) : (resetUnit s).ms = 0 := rfl
@[simp] theorem resetUnit_cmdl (s : State) : (resetUnit s).cmdl = ⟨0, 0, 0, 0⟩ := rfl
@[simp] theorem resetUnit_result (s : State) : (resetUnit s).result = 0 := rfl
@[simp] theorem resetUnit_busy (s : State) : (resetUnit s).busy = false := rfl
@[simp] theorem resetUnit_fault (s : State) : (resetUnit s).fault = false := rfl
@[simp] theorem resetUnit_fcode (s : State) : (resetUnit s).fcode = 0 := rfl
@[simp] theorem resetUnit_slpStart (s : State) : (resetUnit s).slpStart = 0 := rfl
@[simp] theorem resetUnit_slpRem (s : State) : (resetUnit s).slpRem = 0 := rfl
@[simp] theorem resetUnit_mode (s : State) : (resetUnit s).mode = ⟨0, 0, 0⟩ := rfl
@[simp] theorem resetUnit_buf (s : State) : (resetUnit s).buf = ⟨0, 0, 0, 0, 0, 0⟩ := rfl
@[simp] theorem resetUnit_act (s : State) : (resetUnit s).act = ⟨0, 0, 0, 0, 0, 0⟩ := rfl
@[simp] theorem resetUnit_pcnt (s : State) : (resetUnit s).pcnt = ⟨0, 0, 0⟩ := rfl
@[simp] theorem resetUnit_hpc (s : State) : (resetUnit s).hpc = 0 := rfl
@[simp] theorem resetUnit_prog (s : State) : (resetUnit s).prog = s.prog := rfl
@[simp] theorem resetUnit_hostRead (s : State) : (resetUnit s).hostRead = s.hostRead := rfl
@[simp] theorem resetUnit_sched (s : State) : (resetUnit s).sched = s.sched := rfl
@[simp] theorem resetUnit_picks (s : State) : (resetUnit s).picks = s.picks := rfl

@[simp] theorem consume_gie (s : State) : (consume s).gie = s.gie := by unfold consume; split <;> rfl
@[simp] theorem consume_run (s : State) : (consume s).run = s.run := by unfold consume; split <;> rfl
@[simp] theorem consume_tieOvf (s : State) : (consume s).tieOvf = s.tieOvf := by unfold consume; split <;> rfl
@[simp] theorem consume_tieCm (s : State) : (consume s).tieCm = s.tieCm := by unfold consume; split <;> rfl
@[simp] theorem consume_ovfPend (s : State) : (consume s).ovfPend = s.ovfPend := by unfold consume; split <;> rfl
@[simp] theorem consume_cmPend (s : State) : (consume s).cmPend = s.cmPend := by unfold consume; split <;> rfl
@[simp] theorem consume_raw (s : State) : (consume s).raw = s.raw := by unfold consume; split <;> rfl
@[simp] theorem consume_tick (s : State) : (consume s).tick = s.tick := by unfold consume; split <;> rfl
@[simp] theorem consume_ms (s : State) : (consume s).ms = s.ms := by unfold consume; split <;> rfl
@[simp] theorem consume_cmdl (s : State) : (consume s).cmdl = s.cmdl := by unfold consume; split <;> rfl
@[simp] theorem consume_result (s : State) : (consume s).result = s.result := by unfold consume; split <;> rfl
@[simp] theorem consume_busy (s : State) : (consume s).busy = s.busy := by unfold consume; split <;> rfl
@[simp] theorem consume_fault (s : State) : (consume s).fault = s.fault := by unfold consume; split <;> rfl
@[simp] theorem consume_fcode (s : State) : (consume s).fcode = s.fcode := by unfold consume; split <;> rfl
@[simp] theorem consume_slpStart (s : State) : (consume s).slpStart = s.slpStart := by unfold consume; split <;> rfl
@[simp] theorem consume_slpRem (s : State) : (consume s).slpRem = s.slpRem := by unfold consume; split <;> rfl
@[simp] theorem consume_mode (s : State) : (consume s).mode = s.mode := by unfold consume; split <;> rfl
@[simp] theorem consume_buf (s : State) : (consume s).buf = s.buf := by unfold consume; split <;> rfl
@[simp] theorem consume_act (s : State) : (consume s).act = s.act := by unfold consume; split <;> rfl
@[simp] theorem consume_pcnt (s : State) : (consume s).pcnt = s.pcnt := by unfold consume; split <;> rfl
@[simp] theorem consume_hpc (s : State) : (consume s).hpc = s.hpc := by unfold consume; split <;> rfl
@[simp] theorem consume_prog (s : State) : (consume s).prog = s.prog := by unfold consume; split <;> rfl
@[simp] theorem consume_hostRead (s : State) : (consume s).hostRead = s.hostRead := by unfold consume; split <;> rfl

end Sys2Proof.Machine
end

