-- ==== Sys2Proof/Laws/Effects.lean ====
section
/-! SUPPORT. What a command, an issued word and a step can do, said once each: every later proof takes one of these apart
instead of unfolding the machine. -/

namespace Sys2Proof.Machine

/-- Everything a command can do to s, with the condition under which it does it. -/
inductive CommandEffect (s : State) : Instr → State → Prop where
  | initTwice : s.run = true → CommandEffect s .clkInit (raiseFault .initTwice s)
  | clkInit : s.run = false → CommandEffect s .clkInit (startClock s)
  | msRead : CommandEffect s .msRead (setResult s.ms s)
  | usRead : CommandEffect s .usRead (setResult (usNow s) s)
  | sleepMasked (dur : Nat) : s.gie = false → CommandEffect s (.sleepMs dur) (raiseFault .sleepMasked s)
  | sleepNoClk (dur : Nat) :
      s.gie = true → s.run = false → CommandEffect s (.sleepMs dur) (raiseFault .sleepNoClk s)
  | sleepMs (dur : Nat) : s.gie = true → s.run = true → CommandEffect s (.sleepMs dur) (beginSleep dur s)
  | sleepUs (dur : Nat) : CommandEffect s (.sleepUs dur) s
  | enableBadPin (pin duty : Nat) :
      pwmPinMap pin = none → CommandEffect s (.pwmEnable pin duty) (raiseFault .badPin s)
  | enable (pin duty : Nat) (ch : Channel) :
      pwmPinMap pin = some ch →
      CommandEffect s (.pwmEnable pin duty)
        (setBuf ch (clampDuty duty) (setMode ch.pair (modeEnabled (pairGet s.mode ch.pair) ch.side) s))
  | setDutyBadPin (pin duty : Nat) :
      pwmPinMap pin = none → CommandEffect s (.pwmSetDuty pin duty) (raiseFault .badPin s)
  | setDutyDisabled (pin duty : Nat) (ch : Channel) :
      pwmPinMap pin = some ch → channelOn s ch = false →
      CommandEffect s (.pwmSetDuty pin duty) (raiseFault .dutyWhileDisabled s)
  | setDuty (pin duty : Nat) (ch : Channel) :
      pwmPinMap pin = some ch → channelOn s ch = true →
      CommandEffect s (.pwmSetDuty pin duty) (setBuf ch (clampDuty duty) s)
  | disableBadPin (pin : Nat) : pwmPinMap pin = none → CommandEffect s (.pwmDisable pin) (raiseFault .badPin s)
  | disable (pin : Nat) (ch : Channel) :
      pwmPinMap pin = some ch →
      CommandEffect s (.pwmDisable pin)
        (setBuf ch 0 (setMode ch.pair (modeDisabled (pairGet s.mode ch.pair) ch.side) s))
  | getDutyBadPin (pin : Nat) : pwmPinMap pin = none → CommandEffect s (.pwmGetDuty pin) (raiseFault .badPin s)
  | getDuty (pin : Nat) (ch : Channel) :
      pwmPinMap pin = some ch → CommandEffect s (.pwmGetDuty pin) (setResult ((chanGet s.buf ch).setWidth 32) s)
  | irqOff : CommandEffect s .irqOff (setGie false s)
  | irqOn : CommandEffect s .irqOn (setGie true s)

/-- Every command answers a next state, and that state is one of its effects. -/
theorem exec_effect (i : Instr) (s : State) : ∃ t, exec i s = .next t ∧ CommandEffect s i t := by
  cases i with
  | clkInit =>
    cases h : s.run
    · exact ⟨_, by simp [exec, execClkInit, h], .clkInit h⟩
    · exact ⟨_, by simp [exec, execClkInit, h], .initTwice h⟩
  | msRead => exact ⟨_, rfl, .msRead⟩
  | usRead => exact ⟨_, rfl, .usRead⟩
  | sleepMs dur =>
    cases hg : s.gie
    · exact ⟨_, by simp [exec, execSleepMs, hg], .sleepMasked dur hg⟩
    · cases hr : s.run
      · exact ⟨_, by simp [exec, execSleepMs, hg, hr], .sleepNoClk dur hg hr⟩
      · exact ⟨_, by simp [exec, execSleepMs, hg, hr], .sleepMs dur hg hr⟩
  | sleepUs dur => exact ⟨_, rfl, .sleepUs dur⟩
  | pwmEnable pin duty =>
    cases h : pwmPinMap pin with
    | none => exact ⟨_, by simp [exec, execPwmEnable, withChannel, h], .enableBadPin pin duty h⟩
    | some ch => exact ⟨_, by simp [exec, execPwmEnable, withChannel, h, enableChannel], .enable pin duty ch h⟩
  | pwmSetDuty pin duty =>
    cases h : pwmPinMap pin with
    | none => exact ⟨_, by simp [exec, execPwmSetDuty, withChannel, h], .setDutyBadPin pin duty h⟩
    | some ch =>
      cases ho : channelOn s ch
      · exact ⟨_, by simp [exec, execPwmSetDuty, withChannel, h, writeDuty, ho], .setDutyDisabled pin duty ch h ho⟩
      · exact ⟨_, by simp [exec, execPwmSetDuty, withChannel, h, writeDuty, ho], .setDuty pin duty ch h ho⟩
  | pwmDisable pin =>
    cases h : pwmPinMap pin with
    | none => exact ⟨_, by simp [exec, execPwmDisable, withChannel, h], .disableBadPin pin h⟩
    | some ch => exact ⟨_, by simp [exec, execPwmDisable, withChannel, h, disableChannel], .disable pin ch h⟩
  | pwmGetDuty pin =>
    cases h : pwmPinMap pin with
    | none => exact ⟨_, by simp [exec, execPwmGetDuty, withChannel, h], .getDutyBadPin pin h⟩
    | some ch => exact ⟨_, by simp [exec, execPwmGetDuty, withChannel, h, readDuty], .getDuty pin ch h⟩
  | irqOff => exact ⟨_, rfl, .irqOff⟩
  | irqOn => exact ⟨_, rfl, .irqOn⟩

theorem effect_of_exec {i : Instr} {s t : State} (h : exec i s = .next t) : CommandEffect s i t := by
  obtain ⟨u, hu, he⟩ := exec_effect i s
  rw [h] at hu
  cases hu
  exact he

/-- Everything issuing a word can do to s (R35, R76). -/
inductive IssueEffect (w : Word) (s : State) : State → Prop where
  | dropped : s.fault = true → IssueEffect w s s
  | overrun : s.fault = false → s.busy = true → IssueEffect w s (raiseFault .busyOverrun s)
  | illegal (e : DecodeError) :
      s.fault = false → s.busy = false → decode w = .error e → IssueEffect w s (raiseFault .illegalCmd s)
  | runs (i : Instr) (t : State) :
      s.fault = false → s.busy = false → decode w = .ok i → CommandEffect s i t → IssueEffect w s t

/-- Issuing a word answers a next state, and that state is one of its effects. -/
theorem issue_effect (w : Word) (s : State) : ∃ t, issue w s = .next t ∧ IssueEffect w s t := by
  cases hf : s.fault
  · cases hb : s.busy
    · cases hd : decode w with
      | error e => exact ⟨_, by simp [issue, hf, hb, execute, hd], .illegal e hf hb hd⟩
      | ok i =>
        obtain ⟨t, ht, he⟩ := exec_effect i s
        exact ⟨t, by simp [issue, hf, hb, execute, hd, ht], .runs i t hf hb hd he⟩
    · exact ⟨_, by simp [issue, hf, hb], .overrun hf hb⟩
  · exact ⟨_, by simp [issue, hf], .dropped hf⟩

theorem effect_of_issue {w : Word} {s t : State} (h : issue w s = .next t) : IssueEffect w s t := by
  obtain ⟨u, hu, he⟩ := issue_effect w s
  rw [h] at hu
  cases hu
  exact he

/-- Everything a step that answers a next state can do, with the event it took. -/
inductive StepEffect (s : State) : State → Prop where
  | holds (a : Agent) : chosen s = .agent a → agentEnabled a s = false → StepEffect s (consume s)
  | host (w : Word) (v : State) :
      chosen s = .agent .host → hostEnabled s = true → s.prog[s.hpc]? = some w →
      IssueEffect w (setLatches (latchesOf w) (consume s)) v → StepEffect s (bumpHpc v)
  | rawStep : chosen s = .agent .rawStep → s.run = true → StepEffect s (rawStep (consume s))
  | cmEvent : chosen s = .agent .cmEvent → s.run = true → StepEffect s (cmEvent (consume s))
  | isrOvf : chosen s = .agent .isrOvf → isrOvfEnabled s = true → StepEffect s (isrOvf (consume s))
  | isrCm : chosen s = .agent .isrCm → isrCmEnabled s = true → StepEffect s (isrCm (consume s))
  | sleeper : chosen s = .agent .sleeper → sleeperEnabled s = true → StepEffect s (sleeperStep (consume s))
  | pwmTick (p : Pair) :
      chosen s = .agent (.pwmTick p) → pwmTickEnabled p s = true → StepEffect s (pwmTick p (consume s))
  | busRead (off : Int) (k : Nat) :
      chosen s = .busRead off 1 → windowOffset off = some k →
      StepEffect s { consume s with hostRead := some (windowByte k (consume s)) }
  | latch (off : Int) (v : Byte) (c : CmdLatches) :
      chosen s = .busWrite off [v] → off ≠ 3 → StepEffect s (setLatches c (consume s))
  | ignored (off : Int) (v : Byte) : chosen s = .busWrite off [v] → off ≠ 3 → StepEffect s (consume s)
  | cmd3 (v : Byte) (t : State) :
      chosen s = .busWrite 3 [v] →
      IssueEffect (latchedWord { s.cmdl with l3 := v }) (setLatches { s.cmdl with l3 := v } (consume s)) t →
      StepEffect s t
  | reset : chosen s = .reset → StepEffect s (resetUnit (consume s))

theorem windowOffset_eq_some {off : Int} {k : Nat} (h : windowOffset off = some k) : off = k ∧ k < 32 := by
  unfold windowOffset at h
  split at h
  · cases h
    omega
  · cases h

@[simp] theorem agentEnabled_consume (a : Agent) (s : State) : agentEnabled a (consume s) = agentEnabled a s := by
  cases hs : s.sched <;> cases a <;> simp [consume, hs] <;> rfl

@[simp] theorem usNow_consume (s : State) : usNow (consume s) = usNow s := by
  cases hs : s.sched <;> simp [consume, hs] <;> rfl

@[simp] theorem channelOn_consume (s : State) (ch : Channel) : channelOn (consume s) ch = channelOn s ch := by
  simp [channelOn]

/-- A step that answers a next state has one of the effects listed. -/
theorem step_effect {s t : State} (h : step s = .next t) : StepEffect s t := by
  unfold step at h
  cases hc : chosen s with
  | agent a =>
    rw [hc] at h
    simp only [runEvent, agentTurn, agentEnabled_consume] at h
    cases he : agentEnabled a s
    · rw [he] at h
      cases h
      exact .holds a hc he
    · rw [he] at h
      simp only [if_true] at h
      cases a with
      | host =>
        simp only [agentStep, hostStep, consume_prog, consume_hpc] at h
        cases hw : s.prog[s.hpc]? with
        | none =>
          rw [agentEnabled, hostEnabled] at he
          simp_all
        | some w =>
          rw [hw] at h
          obtain ⟨v, hv, hi⟩ := issue_effect w (setLatches (latchesOf w) (consume s))
          simp only [hv, onNext] at h
          cases h
          exact .host w v hc he hw hi
      | rawStep => cases h; exact .rawStep hc he
      | cmEvent => cases h; exact .cmEvent hc he
      | isrOvf => cases h; exact .isrOvf hc he
      | isrCm => cases h; exact .isrCm hc he
      | sleeper => cases h; exact .sleeper hc he
      | pwmTick p => cases h; exact .pwmTick p hc he
  | busRead off width =>
    rw [hc] at h
    simp only [runEvent, memRead] at h
    split at h
    · cases h
    · rename_i hw
      cases hk : windowOffset off with
      | none => rw [hk] at h; cases h
      | some k =>
        rw [hk] at h
        cases h
        have hw1 : width = 1 := by omega
        exact .busRead off k (by rw [hc, hw1]) hk
  | busWrite off bytes =>
    rw [hc] at h
    simp only [runEvent, memWrite] at h
    split at h
    · rename_i v
      cases hk : windowOffset off with
      | none => rw [hk] at h; cases h
      | some k =>
        rw [hk] at h
        obtain ⟨hoff, -⟩ := windowOffset_eq_some hk
        by_cases h3 : k = 3
        · subst h3
          have hoff' : off = 3 := hoff
          subst hoff'
          have hi : issue (latchedWord { (consume s).cmdl with l3 := v })
              (setLatches { (consume s).cmdl with l3 := v } (consume s)) = .next t := h
          rw [consume_cmdl] at hi
          exact .cmd3 v t hc (effect_of_issue hi)
        · have hne : off ≠ 3 := by omega
          match k, h, h3 with
          | 0, h, _ => cases h; exact .latch off v _ hc hne
          | 1, h, _ => cases h; exact .latch off v _ hc hne
          | 2, h, _ => cases h; exact .latch off v _ hc hne
          | 3, _, h3 => exact absurd rfl h3
          | n + 4, h, _ => cases h; exact .ignored off v hc hne
    · cases h
  | reset =>
    rw [hc] at h
    cases h
    exact .reset hc

end Sys2Proof.Machine
end

