-- ==== Sys2Proof/Laws/Ops.lean ====
section
/-! SUPPORT. What the shared operations do, one lemma each, and how the events of a step show in `executed` and `takes`. -/

namespace Sys2Proof.Machine

/-- `raise Fault(code)` writes FAULT and FCODE alone (R74). -/
theorem raiseFault_eq (c : FaultCode) (s : State) :
    raiseFault c s = { s with fault := true, fcode := faultByte c } := rfl

/-- No fault code is 0x00 (R75). -/
theorem faultByte_ne_zero (c : FaultCode) : faultByte c ≠ 0 := by cases c <;> decide

theorem faultByte_le (c : FaultCode) : (faultByte c).toNat ≤ 7 := by cases c <;> decide

/-- `resolve(pin)` faults BAD_PIN on a pin outside the map (R62). -/
theorem withChannel_none {pin : Nat} (f : Channel → State → State) (s : State) (h : pwmPinMap pin = none) :
    withChannel pin f s = raiseFault .badPin s := by simp [withChannel, h]

/-- `resolve(pin)` hands a mapped pin's channel to the command (R62). -/
theorem withChannel_some {pin : Nat} {ch : Channel} (f : Channel → State → State) (s : State)
    (h : pwmPinMap pin = some ch) : withChannel pin f s = f ch s := by simp [withChannel, h]

/-- The clamp of a duty: min(duty, DUTY_MAX) (R8). -/
theorem clampDuty_toNat (duty : Nat) : (clampDuty duty).toNat = min duty Config.dutyMax := by
  simp [clampDuty, Config.dutyMax]

/-- SLEEPER counts in the snapshot's microseconds (R57). -/
theorem sleepElapsed_eq (s : State) : sleepElapsed s = usNow s - s.slpStart := rfl

/-- A turn of an agent always answers a next state. -/
theorem agentTurn_next (a : Agent) (s : State) : ∃ t, agentTurn a s = .next t := by
  unfold agentTurn
  split
  · cases a with
    | host =>
      simp only [agentStep, hostStep]
      split
      · rename_i w hw
        obtain ⟨t, ht, -⟩ := issue_effect w (setLatches (latchesOf w) s)
        exact ⟨bumpHpc t, by simp [ht, onNext]⟩
      · exact ⟨s, rfl⟩
    | rawStep => exact ⟨_, rfl⟩
    | cmEvent => exact ⟨_, rfl⟩
    | isrOvf => exact ⟨_, rfl⟩
    | isrCm => exact ⟨_, rfl⟩
    | sleeper => exact ⟨_, rfl⟩
    | pwmTick p => exact ⟨_, rfl⟩
  · exact ⟨s, rfl⟩

/-- A step whose chosen agent is enabled is that agent's step. -/
theorem step_of_enabled {s : State} {a : Agent} (hc : chosen s = .agent a) (he : agentEnabled a s = true) :
    step s = agentStep a (consume s) := by
  simp only [step, hc, runEvent, agentTurn, agentEnabled_consume, he, if_true]

/-- A step whose chosen agent is not enabled changes the schedule alone. -/
theorem step_of_disabled {s : State} {a : Agent} (hc : chosen s = .agent a) (he : agentEnabled a s = false) :
    step s = .next (consume s) := by
  simp [step, hc, runEvent, agentTurn, agentEnabled_consume, he]

/-- HOST is enabled when it has a word to issue and nothing holds it (R88). -/
theorem hostEnabled_of {s : State} {w : Word} (hw : s.prog[s.hpc]? = some w) (hb : s.busy = false)
    (hf : s.fault = false) : hostEnabled s = true := by
  have hlt : s.hpc < s.prog.length := (List.getElem?_eq_some_iff.1 hw).1
  simp [hostEnabled, hlt, hb, hf]

/-- A HOST step with a word to issue (R88). -/
theorem hostStep_of {s : State} {w : Word} (hw : s.prog[s.hpc]? = some w) :
    hostStep s = onNext (issue w (setLatches (latchesOf w) s)) bumpHpc := by
  simp only [hostStep, hw]

/-- An executed word is its command, or ILLEGAL_CMD (R49, R50). -/
theorem issue_of_ready {s : State} (w : Word) (hf : s.fault = false) (hb : s.busy = false) :
    issue w s = execute w s := by
  simp [issue, hf, hb]

/-- A PWMTICK changes nothing but its pair's counter and, at the wrap, the pair's active values (R67). -/
theorem pwmTick_frame (p : Pair) (s : State) :
    pwmTick p s = { s with pcnt := (pwmTick p s).pcnt, act := (pwmTick p s).act } := by
  unfold pwmTick
  split <;> rfl

@[simp] theorem pwmTick_gie (p : Pair) (s : State) : (pwmTick p s).gie = s.gie := by rw [pwmTick_frame]
@[simp] theorem pwmTick_run (p : Pair) (s : State) : (pwmTick p s).run = s.run := by rw [pwmTick_frame]
@[simp] theorem pwmTick_tieOvf (p : Pair) (s : State) : (pwmTick p s).tieOvf = s.tieOvf := by rw [pwmTick_frame]
@[simp] theorem pwmTick_tieCm (p : Pair) (s : State) : (pwmTick p s).tieCm = s.tieCm := by rw [pwmTick_frame]
@[simp] theorem pwmTick_ovfPend (p : Pair) (s : State) : (pwmTick p s).ovfPend = s.ovfPend := by rw [pwmTick_frame]
@[simp] theorem pwmTick_cmPend (p : Pair) (s : State) : (pwmTick p s).cmPend = s.cmPend := by rw [pwmTick_frame]
@[simp] theorem pwmTick_raw (p : Pair) (s : State) : (pwmTick p s).raw = s.raw := by rw [pwmTick_frame]
@[simp] theorem pwmTick_tick (p : Pair) (s : State) : (pwmTick p s).tick = s.tick := by rw [pwmTick_frame]
@[simp] theorem pwmTick_ms (p : Pair) (s : State) : (pwmTick p s).ms = s.ms := by rw [pwmTick_frame]
@[simp] theorem pwmTick_cmdl (p : Pair) (s : State) : (pwmTick p s).cmdl = s.cmdl := by rw [pwmTick_frame]
@[simp] theorem pwmTick_result (p : Pair) (s : State) : (pwmTick p s).result = s.result := by rw [pwmTick_frame]
@[simp] theorem pwmTick_busy (p : Pair) (s : State) : (pwmTick p s).busy = s.busy := by rw [pwmTick_frame]
@[simp] theorem pwmTick_fault (p : Pair) (s : State) : (pwmTick p s).fault = s.fault := by rw [pwmTick_frame]
@[simp] theorem pwmTick_fcode (p : Pair) (s : State) : (pwmTick p s).fcode = s.fcode := by rw [pwmTick_frame]
@[simp] theorem pwmTick_slpStart (p : Pair) (s : State) : (pwmTick p s).slpStart = s.slpStart := by rw [pwmTick_frame]
@[simp] theorem pwmTick_slpRem (p : Pair) (s : State) : (pwmTick p s).slpRem = s.slpRem := by rw [pwmTick_frame]
@[simp] theorem pwmTick_mode (p : Pair) (s : State) : (pwmTick p s).mode = s.mode := by rw [pwmTick_frame]
@[simp] theorem pwmTick_buf (p : Pair) (s : State) : (pwmTick p s).buf = s.buf := by rw [pwmTick_frame]
@[simp] theorem pwmTick_hpc (p : Pair) (s : State) : (pwmTick p s).hpc = s.hpc := by rw [pwmTick_frame]
@[simp] theorem pwmTick_prog (p : Pair) (s : State) : (pwmTick p s).prog = s.prog := by rw [pwmTick_frame]
@[simp] theorem pwmTick_hostRead (p : Pair) (s : State) : (pwmTick p s).hostRead = s.hostRead := by rw [pwmTick_frame]
@[simp] theorem pwmTick_sched (p : Pair) (s : State) : (pwmTick p s).sched = s.sched := by rw [pwmTick_frame]
@[simp] theorem pwmTick_picks (p : Pair) (s : State) : (pwmTick p s).picks = s.picks := by rw [pwmTick_frame]

@[simp] theorem pwmTick_pcnt (p : Pair) (s : State) :
    (pwmTick p s).pcnt = pairSet s.pcnt p (pairGet s.pcnt p + 1) := by
  unfold pwmTick
  split <;> rfl

theorem pwmTick_act (p : Pair) (s : State) :
    (pwmTick p s).act = if pairGet s.pcnt p + 1 = 0 then (loadActive p s).act else s.act := by
  unfold pwmTick
  split <;> rfl

/-- A step that takes HOST issues the program's word. -/
theorem issuedWord_host {s : State} {w : Word} (hc : chosen s = .agent .host) (he : hostEnabled s = true)
    (hw : s.prog[s.hpc]? = some w) : issuedWord s = some w := by
  simp [issuedWord, hc, he, hw]

/-- A bus write to CMD3 issues the latched word. -/
theorem issuedWord_cmd3 {s : State} {v : Byte} (hc : chosen s = .busWrite 3 [v]) :
    issuedWord s = some (latchedWord { s.cmdl with l3 := v }) := by
  simp [issuedWord, hc]

/-- An issued word that runs is the executed command. -/
theorem executed_of_issued {s : State} {w : Word} {i : Instr} (hw : issuedWord s = some w) (hf : s.fault = false)
    (hb : s.busy = false) (hd : decode w = .ok i) : executed s = some i := by
  simp [executed, hw, hf, hb, hd, Except.toOption]

theorem executed_eq_none_of_stopped {s : State} (h : s.fault = true ∨ s.busy = true) : executed s = none := by
  unfold executed
  split
  · rcases h with h | h <;> simp [h]
  · rfl

theorem takes_of_chosen {s : State} {a : Agent} (hc : chosen s = .agent a) (he : agentEnabled a s = true) :
    takes a s = true := by
  simp [takes, hc, he]

/-- The state with the host's side of a step set: the latches, hpc and the byte the host holds. -/
def withHostSide (c : CmdLatches) (h : Nat) (r : Option Byte) (s : State) : State :=
  { s with cmdl := c, hpc := h, hostRead := r }

@[simp] theorem withHostSide_gie (c : CmdLatches) (h : Nat) (r : Option Byte) (s : State) :
    (withHostSide c h r s).gie = s.gie := rfl
@[simp] theorem withHostSide_run (c : CmdLatches) (h : Nat) (r : Option Byte) (s : State) :
    (withHostSide c h r s).run = s.run := rfl
@[simp] theorem withHostSide_tieOvf (c : CmdLatches) (h : Nat) (r : Option Byte) (s : State) :
    (withHostSide c h r s).tieOvf = s.tieOvf := rfl
@[simp] theorem withHostSide_tieCm (c : CmdLatches) (h : Nat) (r : Option Byte) (s : State) :
    (withHostSide c h r s).tieCm = s.tieCm := rfl
@[simp] theorem withHostSide_ovfPend (c : CmdLatches) (h : Nat) (r : Option Byte) (s : State) :
    (withHostSide c h r s).ovfPend = s.ovfPend := rfl
@[simp] theorem withHostSide_cmPend (c : CmdLatches) (h : Nat) (r : Option Byte) (s : State) :
    (withHostSide c h r s).cmPend = s.cmPend := rfl
@[simp] theorem withHostSide_raw (c : CmdLatches) (h : Nat) (r : Option Byte) (s : State) :
    (withHostSide c h r s).raw = s.raw := rfl
@[simp] theorem withHostSide_tick (c : CmdLatches) (h : Nat) (r : Option Byte) (s : State) :
    (withHostSide c h r s).tick = s.tick := rfl
@[simp] theorem withHostSide_ms (c : CmdLatches) (h : Nat) (r : Option Byte) (s : State) :
    (withHostSide c h r s).ms = s.ms := rfl
@[simp] theorem withHostSide_cmdl (c : CmdLatches) (h : Nat) (r : Option Byte) (s : State) :
    (withHostSide c h r s).cmdl = c := rfl
@[simp] theorem withHostSide_result (c : CmdLatches) (h : Nat) (r : Option Byte) (s : State) :
    (withHostSide c h r s).result = s.result := rfl
@[simp] theorem withHostSide_busy (c : CmdLatches) (h : Nat) (r : Option Byte) (s : State) :
    (withHostSide c h r s).busy = s.busy := rfl
@[simp] theorem withHostSide_fault (c : CmdLatches) (h : Nat) (r : Option Byte) (s : State) :
    (withHostSide c h r s).fault = s.fault := rfl
@[simp] theorem withHostSide_fcode (c : CmdLatches) (h : Nat) (r : Option Byte) (s : State) :
    (withHostSide c h r s).fcode = s.fcode := rfl
@[simp] theorem withHostSide_slpStart (c : CmdLatches) (h : Nat) (r : Option Byte) (s : State) :
    (withHostSide c h r s).slpStart = s.slpStart := rfl
@[simp] theorem withHostSide_slpRem (c : CmdLatches) (h : Nat) (r : Option Byte) (s : State) :
    (withHostSide c h r s).slpRem = s.slpRem := rfl
@[simp] theorem withHostSide_mode (c : CmdLatches) (h : Nat) (r : Option Byte) (s : State) :
    (withHostSide c h r s).mode = s.mode := rfl
@[simp] theorem withHostSide_buf (c : CmdLatches) (h : Nat) (r : Option Byte) (s : State) :
    (withHostSide c h r s).buf = s.buf := rfl
@[simp] theorem withHostSide_act (c : CmdLatches) (h : Nat) (r : Option Byte) (s : State) :
    (withHostSide c h r s).act = s.act := rfl
@[simp] theorem withHostSide_pcnt (c : CmdLatches) (h : Nat) (r : Option Byte) (s : State) :
    (withHostSide c h r s).pcnt = s.pcnt := rfl
@[simp] theorem withHostSide_hpc (c : CmdLatches) (h : Nat) (r : Option Byte) (s : State) :
    (withHostSide c h r s).hpc = h := rfl
@[simp] theorem withHostSide_prog (c : CmdLatches) (h : Nat) (r : Option Byte) (s : State) :
    (withHostSide c h r s).prog = s.prog := rfl
@[simp] theorem withHostSide_hostRead (c : CmdLatches) (h : Nat) (r : Option Byte) (s : State) :
    (withHostSide c h r s).hostRead = r := rfl
@[simp] theorem withHostSide_sched (c : CmdLatches) (h : Nat) (r : Option Byte) (s : State) :
    (withHostSide c h r s).sched = s.sched := rfl
@[simp] theorem withHostSide_picks (c : CmdLatches) (h : Nat) (r : Option Byte) (s : State) :
    (withHostSide c h r s).picks = s.picks := rfl

/-- What a step does to the unit, the host's side left open: nothing, a latched fault, a command, one agent's step, or
reset. -/
inductive UnitEffect (s : State) : State → Prop where
  | quiet (c : CmdLatches) (h : Nat) (r : Option Byte) : UnitEffect s (withHostSide c h r (consume s))
  | faults (code : FaultCode) (c : CmdLatches) (h : Nat) :
      s.fault = false → executed s = none →
      UnitEffect s (raiseFault code (withHostSide c h s.hostRead (consume s)))
  | command (w : Word) (i : Instr) (c : CmdLatches) (h : Nat) (v : State) :
      s.fault = false → s.busy = false → decode w = .ok i → executed s = some i →
      CommandEffect (withHostSide c s.hpc s.hostRead (consume s)) i v → UnitEffect s (withHostSide v.cmdl h v.hostRead v)
  | rawStep : takes .rawStep s = true → UnitEffect s (rawStep (consume s))
  | cmEvent : takes .cmEvent s = true → UnitEffect s (cmEvent (consume s))
  | isrOvf : takes .isrOvf s = true → UnitEffect s (isrOvf (consume s))
  | isrCm : takes .isrCm s = true → UnitEffect s (isrCm (consume s))
  | sleeper : takes .sleeper s = true → UnitEffect s (sleeperStep (consume s))
  | pwmTick (p : Pair) : takes (.pwmTick p) s = true → UnitEffect s (pwmTick p (consume s))
  | reset : chosen s = .reset → UnitEffect s (resetUnit (consume s))

theorem unit_effect_of_issue {s v : State} {w : Word} {c : CmdLatches} (h : Nat) (hw : issuedWord s = some w)
    (hi : IssueEffect w (setLatches c (consume s)) v) : UnitEffect s (withHostSide v.cmdl h v.hostRead v) := by
  have hbase : setLatches c (consume s) = withHostSide c s.hpc s.hostRead (consume s) := by
    cases hs : s.sched <;> simp [setLatches, withHostSide, consume, hs]
  cases hi with
  | dropped hf =>
    exact (by
      have := UnitEffect.quiet (s := s) c h (setLatches c (consume s)).hostRead
      rwa [show withHostSide (setLatches c (consume s)).cmdl h (setLatches c (consume s)).hostRead
        (setLatches c (consume s)) = withHostSide c h (setLatches c (consume s)).hostRead (consume s) from rfl])
  | overrun hf hb =>
    have hf' : s.fault = false := by simpa using hf
    have hb' : s.busy = true := by simpa using hb
    have := UnitEffect.faults (s := s) .busyOverrun c h hf' (executed_eq_none_of_stopped (.inr hb'))
    rw [hbase]
    exact this
  | illegal e hf hb hd =>
    have hf' : s.fault = false := by simpa using hf
    have hb' : s.busy = false := by simpa using hb
    have he : executed s = none := by simp [executed, hw, hf', hb', hd, Except.toOption]
    have := UnitEffect.faults (s := s) .illegalCmd c h hf' he
    rw [hbase]
    exact this
  | runs i _ hf hb hd hc =>
    have hf' : s.fault = false := by simpa using hf
    have hb' : s.busy = false := by simpa using hb
    rw [hbase] at hc
    exact .command w i c h v hf' hb' hd (executed_of_issued hw hf' hb' hd) hc

/-- A command leaves the latches, hpc, the program and the schedule as they are. -/
theorem CommandEffect.host_side {s t : State} {i : Instr} (h : CommandEffect s i t) :
    t.cmdl = s.cmdl ∧ t.hpc = s.hpc ∧ t.hostRead = s.hostRead ∧ t.prog = s.prog ∧ t.sched = s.sched ∧
      t.picks = s.picks := by
  cases h <;> exact ⟨rfl, rfl, rfl, rfl, rfl, rfl⟩

theorem IssueEffect.host_side {w : Word} {s t : State} (h : IssueEffect w s t) :
    t.cmdl = s.cmdl ∧ t.hpc = s.hpc ∧ t.hostRead = s.hostRead ∧ t.prog = s.prog ∧ t.sched = s.sched ∧
      t.picks = s.picks := by
  cases h with
  | dropped => exact ⟨rfl, rfl, rfl, rfl, rfl, rfl⟩
  | overrun => exact ⟨rfl, rfl, rfl, rfl, rfl, rfl⟩
  | illegal => exact ⟨rfl, rfl, rfl, rfl, rfl, rfl⟩
  | runs i _ _ _ _ hc => exact hc.host_side

/-- Every step that answers a next state has one of the unit's effects. -/
theorem unit_effect {s t : State} (h : step s = .next t) : UnitEffect s t := by
  cases step_effect h with
  | holds a hc he =>
    have := UnitEffect.quiet (s := s) s.cmdl s.hpc s.hostRead
    rwa [show withHostSide s.cmdl s.hpc s.hostRead (consume s) = consume s by
      cases hs : s.sched <;> simp [withHostSide, consume, hs]] at this
  | host w v hc he hw hi => exact unit_effect_of_issue (v.hpc + 1) (issuedWord_host hc he hw) hi
  | rawStep hc he => exact .rawStep (takes_of_chosen hc he)
  | cmEvent hc he => exact .cmEvent (takes_of_chosen hc he)
  | isrOvf hc he => exact .isrOvf (takes_of_chosen hc he)
  | isrCm hc he => exact .isrCm (takes_of_chosen hc he)
  | sleeper hc he => exact .sleeper (takes_of_chosen hc he)
  | pwmTick p hc he => exact .pwmTick p (takes_of_chosen hc he)
  | busRead off k hc hk =>
    have := UnitEffect.quiet (s := s) (consume s).cmdl (consume s).hpc (some (windowByte k (consume s)))
    exact this
  | latch off v c hc hne =>
    have := UnitEffect.quiet (s := s) c (consume s).hpc (consume s).hostRead
    exact this
  | ignored off v hc hne =>
    have := UnitEffect.quiet (s := s) (consume s).cmdl (consume s).hpc (consume s).hostRead
    exact this
  | cmd3 v t hc hi => exact unit_effect_of_issue t.hpc (issuedWord_cmd3 hc) hi
  | reset hc => exact .reset hc

/-- What one event of a run does, by the step that has it next in the schedule. -/
theorem unit_effect_of_event {e : Event} {s t : State} (h : runEvent e s = .next t) :
    UnitEffect { s with sched := e :: s.sched } t := unit_effect (s := { s with sched := e :: s.sched }) h

/-- No event changes the host's program. -/
theorem runEvent_prog {e : Event} {s t : State} (h : runEvent e s = .next t) : t.prog = s.prog := by
  cases unit_effect_of_event h with
  | command w i c hh v hf hb hd he hc => simpa [consume] using hc.host_side.2.2.2.1
  | _ => simp [consume, resetUnit]

end Sys2Proof.Machine
end

