-- ==== Sys2Proof/Laws/PerInstr.lean ====
section
/-! SUPPORT. Statements about every command, one lemma per constructor. -/

namespace Sys2Proof

/-- The opcode of a command (30_encoding.md R48). -/
def opcodeBits (i : Instr) : BitVec 4 :=
  match i with
  | .clkInit => 0x1
  | .msRead => 0x2
  | .usRead => 0x3
  | .sleepMs _ => 0x4
  | .sleepUs _ => 0x5
  | .pwmEnable _ _ => 0x6
  | .pwmSetDuty _ _ => 0x7
  | .pwmDisable _ => 0x8
  | .pwmGetDuty _ => 0x9
  | .irqOff => 0xA
  | .irqOn => 0xB

/-- The encoder puts the opcode in bits [31:28] and 0 in RSV (R46). -/
def Laws.OpcodeField.Statement (i : Instr) : Prop :=
  opField (encode i) = opcodeBits i ∧ rsvField (encode i) = 0

theorem packWord_opFields (op : BitVec 4) (low : BitVec 24) :
    opField (packWord op low) = op ∧ rsvField (packWord op low) = 0 := by
  rw [packWord_eq]
  exact ⟨opField_fieldsWord .., rsvField_fieldsWord ..⟩

theorem Laws.OpcodeField.clkInit : Laws.OpcodeField.Statement .clkInit := packWord_opFields _ _

theorem Laws.OpcodeField.msRead : Laws.OpcodeField.Statement .msRead := packWord_opFields _ _

theorem Laws.OpcodeField.usRead : Laws.OpcodeField.Statement .usRead := packWord_opFields _ _

theorem Laws.OpcodeField.sleepMs (dur : Nat) : Laws.OpcodeField.Statement (.sleepMs dur) := packWord_opFields _ _

theorem Laws.OpcodeField.sleepUs (dur : Nat) : Laws.OpcodeField.Statement (.sleepUs dur) := packWord_opFields _ _

theorem Laws.OpcodeField.pwmEnable (pin duty : Nat) : Laws.OpcodeField.Statement (.pwmEnable pin duty) :=
  packWord_opFields _ _

theorem Laws.OpcodeField.pwmSetDuty (pin duty : Nat) : Laws.OpcodeField.Statement (.pwmSetDuty pin duty) :=
  packWord_opFields _ _

theorem Laws.OpcodeField.pwmDisable (pin : Nat) : Laws.OpcodeField.Statement (.pwmDisable pin) :=
  packWord_opFields _ _

theorem Laws.OpcodeField.pwmGetDuty (pin : Nat) : Laws.OpcodeField.Statement (.pwmGetDuty pin) :=
  packWord_opFields _ _

theorem Laws.OpcodeField.irqOff : Laws.OpcodeField.Statement .irqOff := packWord_opFields _ _

theorem Laws.OpcodeField.irqOn : Laws.OpcodeField.Statement .irqOn := packWord_opFields _ _

end Sys2Proof
end

