-- ==== Sys2Proof/Tests/Slice0.lean ====
section
/-! SUPPORT. The author's tests: ill-formed commands refused, words written out bit by bit from 30_encoding.md R46 and R48,
vectors of 95_test_vectors.md, and for each obligation with hypotheses concrete states and operands that meet them. -/

open Sys2Proof Sys2Proof.Machine

namespace Sys2Proof.Tests

/-! ### Helpers: small states -/

/-- One field of the state an outcome answers. -/
def field {α : Type} (o : Host.Outcome State Fault Refusal) (f : State → α) : Option α :=
  match o with
  | .next s => some (f s)
  | .fault _ => none
  | .refused _ => none

/-- The state an outcome answers, s0 where it stops. -/
def nextOr (s0 : State) (o : Host.Outcome State Fault Refusal) : State :=
  match o with
  | .next s => s
  | .fault _ => s0
  | .refused _ => s0

/-- The state one step later, s itself where the step stops. -/
def after (s : State) : State := nextOr s (step s)

/-- The reset state with an event next. -/
def at' (e : Event) : State := { State.reset with sched := [e] }

/-- s with an agent's turn next. -/
def turn (a : Agent) (s : State) : State := { s with sched := [.agent a] }

/-- s with a program of one word that HOST issues next. -/
def issuing (w : Word) (s : State) : State := { s with prog := [w], hpc := 0, sched := [.agent .host] }

/-- The clock running with everything enabled, at TICK, RAW and OVF_PEND. -/
def clock (tick : BitVec 32) (raw : BitVec 8) (pend : Bool) : State :=
  { State.reset with
    gie := true, run := true, tieOvf := true, tieCm := true, tick := tick, raw := raw, ovfPend := pend }

/-- D9 Enabled(200) and D10 Enabled(50), the active values still (0, 0), PCNT[1] as given. -/
def bothOn (pcnt : Byte) : State :=
  { State.reset with mode := ⟨0, 0xDB, 0⟩, buf := ⟨0, 0, 200, 50, 0, 0⟩, pcnt := ⟨0, pcnt, 0⟩ }

/-- D9 Enabled(200) alone. -/
def d9On : State := { State.reset with mode := ⟨0, 0x9B, 0⟩, buf := ⟨0, 0, 200, 0, 0, 0⟩ }

/-- A sleep in progress with SLP_START = 1024, at usNow = 1024 + 4 * RAW. -/
def sleeping (raw : BitVec 8) (rem : BitVec 24) : State :=
  { clock 1 raw false with busy := true, slpStart := 1024, slpRem := rem }

/-- The state latched into a fault with a code. -/
def stopped (code : Byte) (s : State) : State := { s with fault := true, fcode := code }

/-! ### WellFormed: one ill-formed term for each check -/

theorem test_wf_refuses_wide_pin :
    (Instr.pwmEnable 256 0).wf = false ∧ (Instr.pwmSetDuty 256 0).wf = false ∧ (Instr.pwmDisable 256).wf = false ∧
      (Instr.pwmGetDuty 256).wf = false := by decide

theorem test_wf_refuses_wide_duty :
    (Instr.pwmEnable 9 65536).wf = false ∧ (Instr.pwmSetDuty 9 65536).wf = false := by decide

theorem test_wf_refuses_wide_duration :
    (Instr.sleepMs 16777216).wf = false ∧ (Instr.sleepUs 16777216).wf = false := by decide

theorem test_wf_accepts_boundaries :
    (Instr.pwmEnable 255 65535).wf = true ∧ (Instr.sleepMs 16777215).wf = true ∧ Instr.clkInit.wf = true := by decide

/-! ### Decode: one word per constructor, written out from the formats of R46 and the opcodes of R48 -/

theorem test_decode_clkInit : decode 0b0001_0000_00000000_0000000000000000#32 = .ok .clkInit := rfl

theorem test_decode_msRead : decode 0b0010_0000_00000000_0000000000000000#32 = .ok .msRead := rfl

theorem test_decode_usRead : decode 0b0011_0000_00000000_0000000000000000#32 = .ok .usRead := rfl

theorem test_decode_sleepMs : decode 0b0100_0000_10000000_0000000000000101#32 = .ok (.sleepMs 0x800005) := rfl

theorem test_decode_sleepUs : decode 0b0101_0000_00000001_0000000000001010#32 = .ok (.sleepUs 0x01000A) := rfl

theorem test_decode_pwmEnable : decode 0b0110_0000_00001001_0000000011001000#32 = .ok (.pwmEnable 9 200) := rfl

theorem test_decode_pwmSetDuty : decode 0b0111_0000_00001001_0000000100101100#32 = .ok (.pwmSetDuty 9 300) := rfl

theorem test_decode_pwmDisable : decode 0b1000_0000_00001010_0000000000000000#32 = .ok (.pwmDisable 10) := rfl

theorem test_decode_pwmGetDuty : decode 0b1001_0000_00001001_0000000000000000#32 = .ok (.pwmGetDuty 9) := rfl

theorem test_decode_irqOff : decode 0b1010_0000_00000000_0000000000000000#32 = .ok .irqOff := rfl

theorem test_decode_irqOn : decode 0b1011_0000_00000000_0000000000000000#32 = .ok .irqOn := rfl

/-- The illegal words of 95_test_vectors.md L2-E, each on its ground of R50. -/
theorem test_decode_rejects :
    decode 0x00000000 = .error .unusedOpcode ∧ decode 0x10000001 = .error .mustBeZeroBits ∧
    decode 0x11000000 = .error .reservedBits ∧ decode 0x4F000001 = .error .reservedBits ∧
    decode 0x80090001 = .error .mustBeZeroBits ∧ decode 0x90090080 = .error .mustBeZeroBits ∧
    decode 0xB0000100 = .error .mustBeZeroBits ∧ decode 0xC0000000 = .error .unusedOpcode ∧
    decode 0xF0000000 = .error .unusedOpcode ∧ decode 0xFFFFFFFF = .error .unusedOpcode :=
  ⟨rfl, rfl, rfl, rfl, rfl, rfl, rfl, rfl, rfl, rfl⟩

/-- The bytes of a word, CMD0 first; three bytes are no word (R36, R45). -/
theorem test_decode_bytes :
    decodeBytes [0xC8, 0x00, 0x09, 0x60, 0xAA] = .ok (.pwmEnable 9 200, [0xAA]) ∧
    decodeBytes [0xC8, 0x00, 0x09] = .error .truncated ∧ encodeBytes (.pwmEnable 9 200) = [0xC8, 0x00, 0x09, 0x60] :=
  ⟨rfl, rfl, rfl⟩

/-- The host's entry, numbered as the opcode table numbers bits. -/
theorem test_decodeTableWord :
    decodeTableWord 32 0x7009012C = some (.pwmSetDuty 9 300) ∧ decodeTableWord 32 0xC0000000 = none := by decide

/-- The loaded word is what the very next step runs. -/
theorem test_withFetchWord_runs :
    field (step (State.reset.withFetchWord 32 0x600900C8)) (fun s => (s.mode.p1, s.buf.c1A, s.hpc)) = some (0x9B, 200, 1) ∧
    field (step (State.reset.withFetchWord 32 0xB0000000)) State.gie = some true := by decide

/-- Text of the assembler (R51, R52 and the programs of L3). -/
theorem test_assembler_text :
    assembleText "pwm.enable D9, 200".toList = some 0x600900C8 ∧ assembleText "pwm.enable A0, 1".toList = some 0x600E0001 ∧
    assembleText "pwm.enable D9".toList = some 0x60090000 ∧ assembleText "sleep.ms 16777216".toList = none ∧
    assembleText "pwm.disable D20".toList = none ∧ assembleText ".cmd 0x11000000".toList = some 0x11000000 := by decide

/-- Blanks around an operand are free; one inside an operand makes the line no command (assumption log 13). -/
theorem test_assembler_blanks :
    assembleText "  pwm.enable   D9 ,200 ".toList = some 0x600900C8 ∧ assembleText "sleep.ms 1 0".toList = none ∧
    assembleText "pwm.disable D 9".toList = none ∧ assembleText "pwm.enable D9,".toList = none := by decide

/-! ### Vectors of 95_test_vectors.md -/

/-- L2-C1 rows 1 and 3. -/
theorem test_clk_init :
    field (exec .clkInit State.reset) (fun s => (clkctlByte s, statusByte s)) = some (0x07, 0x04) ∧
    field (exec .clkInit { clock 7 0 false with gie := true }) (fun s => (s.tick, s.fcode, statusByte s)) =
      some (7, 0x06, 0x06) := by decide

/-- L2-C2 rows 3 and 5. -/
theorem test_ms_read :
    field (exec .msRead { clock 0 0 false with ms := 1500, cmPend := true }) (fun s => (s.result, s.cmPend)) =
      some (0x000005DC, true) ∧
    field (exec .msRead { clock 0 0 false with ms := 0xFFFFFFFF }) State.result = some 0xFFFFFFFF := by decide

/-- L2-C3, the rows with a pending overflow and the row of R101. -/
theorem test_us_read_pending :
    field (exec .usRead (clock 0 0 true)) State.result = some 1024 ∧
    field (exec .usRead (clock 0 254 true)) State.result = some 2040 ∧
    field (exec .usRead (clock 0 255 true)) State.result = some 1020 ∧
    field (exec .usRead (clock 5 3 true)) (fun s => (s.result, s.tick, s.ovfPend)) = some (6156, 5, true) ∧
    field (exec .usRead (clock 0xFFFFFFFF 0 true)) State.result = some 0 := by decide

/-- L2-C3, the rows of the wrap at 2^32. -/
theorem test_us_read_wraps :
    field (exec .usRead (clock 0x003FFFFF 255 false)) State.result = some 0xFFFFFFFC ∧
    field (exec .usRead (clock 0x00400000 0 false)) State.result = some 0 ∧
    field (exec .usRead (clock 0xFFFFFFFF 7 false)) State.result = some 0xFFFFFC1C := by decide

/-- L2-C4 rows 1 to 5. -/
theorem test_sleep_ms :
    field (exec (.sleepMs 2) (clock 0 250 false)) (fun s => (s.slpStart, s.slpRem, statusByte s)) = some (1000, 2, 0x05) ∧
    field (exec (.sleepMs 0) (clock 0 125 false)) (fun s => (s.slpStart, s.slpRem, s.busy)) = some (500, 0, false) ∧
    field (exec (.sleepMs 5) { clock 0 0 false with gie := false, run := false }) State.fcode = some 0x04 ∧
    field (exec (.sleepMs 5) { State.reset with gie := true }) State.fcode = some 0x05 := by decide

/-- L2-C4 row 9: the elapsed time is counted modulo 2^32. -/
theorem test_sleeper_wraps :
    field (step (turn .sleeper
      { clock 0 122 false with busy := true, slpStart := 0xFFFFFE00, slpRem := 3 }))
      (fun s => (s.slpRem, s.slpStart, s.busy)) = some (2, 0x000001E8, true) := by decide

/-- L2-C5. -/
theorem test_sleep_us : exec (.sleepUs 16777215) State.reset = .next State.reset := rfl

/-- L2-P1 rows 3 and 6, the second under the pin map of R13. -/
theorem test_pwm_enable :
    field (exec (.pwmEnable 9 0) { State.reset with mode := ⟨0, 0x5B, 0⟩ }) (fun s => (s.mode.p1, s.buf.c1A)) =
      some (0xDB, 0) ∧
    (IsPinMapOfR13 pwmPinMap →
      field (exec (.pwmEnable 3 256) State.reset) (fun s => (s.mode.p2, s.buf.c2B)) = some (0x5B, 255)) :=
  ⟨by decide, fun _ => by decide⟩

/-- L2-P1, the rows of pins outside the map. -/
theorem test_pwm_enable_bad_pin :
    field (exec (.pwmEnable 7 1) State.reset) (fun s => (s.fault, s.fcode, s.mode)) = some (true, 0x02, ⟨0, 0, 0⟩) ∧
    field (exec (.pwmEnable 14 1) State.reset) State.fcode = some 0x02 := by decide

/-- L2-P2 rows 3, 6 and 7. -/
theorem test_pwm_set_duty :
    field (exec (.pwmSetDuty 9 256) d9On) (fun s => (s.buf.c1A, s.fault)) = some (255, false) ∧
    field (exec (.pwmSetDuty 9 10) State.reset) (fun s => (s.buf.c1A, s.fcode)) = some (0, 0x03) ∧
    field (exec (.pwmSetDuty 2 10) d9On) State.fcode = some 0x02 := by decide

/-- L2-P3 rows 1 and 2, the first under the pin map of R13. -/
theorem test_pwm_disable :
    (IsPinMapOfR13 pwmPinMap →
      field (exec (.pwmDisable 10) (bothOn 0)) (fun s => (s.mode.p1, s.buf.c1B, s.buf.c1A)) = some (0x9B, 0, 200)) ∧
    field (exec (.pwmDisable 9) d9On) (fun s => (s.mode.p1, s.buf.c1A)) = some (0x1B, 0) :=
  ⟨fun _ => by decide, by decide⟩

/-- L2-P4 rows 4 and 5. -/
theorem test_pwm_get_duty :
    field (exec (.pwmGetDuty 9) { d9On with act := ⟨0, 0, 50, 0, 0, 0⟩ }) State.result = some 0x000000C8 ∧
    field (exec (.pwmGetDuty 13) d9On) (fun s => (s.result, s.fcode)) = some (0, 0x02) := by decide

/-- L2-P5: the wrap loads both channels of the pair; the comparison at its edge. -/
theorem test_pwm_tick_and_out :
    field (step (turn (.pwmTick .p1) (bothOn 255))) (fun s => (s.pcnt.p1, s.act.c1A, s.act.c1B)) = some (0, 200, 50) ∧
    out { d9On with act := ⟨0, 0, 200, 0, 0, 0⟩, pcnt := ⟨0, 199, 0⟩ } ⟨.p1, .A⟩ = true ∧
    out { d9On with act := ⟨0, 0, 200, 0, 0, 0⟩, pcnt := ⟨0, 200, 0⟩ } ⟨.p1, .A⟩ = false := by decide

/-- L2-I rows 3 and 1. -/
theorem test_irq :
    field (exec .irqOn { clock 0 0 true with gie := false }) isrOvfEnabled = some true ∧
    field (exec .irqOff (clock 0 0 true)) (fun s => (statusByte s, s.ovfPend)) = some (0x00, true) := by decide

/-- L2-X rows 3, 4 and 7. -/
theorem test_agents :
    field (step (turn .rawStep (clock 0 255 false))) (fun s => (s.raw, s.ovfPend)) = some (0, true) ∧
    field (step (turn .rawStep (clock 0 255 true))) (fun s => (s.raw, s.ovfPend)) = some (0, true) ∧
    field (step (turn .isrOvf (clock 0xFFFFFFFF 0 true))) (fun s => (s.tick, s.ovfPend)) = some (0, false) := by decide

/-- L2-F rows 1, 3 and 4. -/
theorem test_fault_priority :
    field (issue 0x10000000 (stopped 0x03 State.reset)) (fun s => (s.fcode, s.run)) = some (0x03, false) ∧
    field (issue 0xC0000000 (sleeping 0 2)) (fun s => (s.fcode, s.busy)) = some (0x07, true) ∧
    field (issue 0x7007000A State.reset) State.fcode = some 0x02 := by decide

/-- L2-B: reads. -/
theorem test_bus_reads :
    field (step { clock 0 0 true with sched := [.busRead 0x0A 1] }) State.hostRead = some (some 0x0F) ∧
    field (step { State.reset with result := 0x000005DC, sched := [.busRead 0x05 1] }) State.hostRead =
      some (some 0x05) := by decide

/-- L2-B: writes; the last one issues the latched word. -/
theorem test_bus_writes :
    field (step { d9On with sched := [.busWrite 0x0D [0x00]] }) (fun s => s.mode.p1) = some 0x9B ∧
    field (step { State.reset with cmdl := ⟨0xC8, 0x00, 0x09, 0xFF⟩, sched := [.busWrite 0x03 [0x60]] })
      (fun s => (s.mode.p1, s.buf.c1A, s.cmdl)) = some (0x9B, 200, ⟨0xC8, 0x00, 0x09, 0x60⟩) := by decide

/-- L3-6, its fifth access: the stale latch makes the word illegal. -/
theorem test_stale_latch :
    field (step { State.reset with cmdl := ⟨0x80, 0x00, 0x09, 0x60⟩, sched := [.busWrite 0x03 [0x90]] })
      (fun s => (s.fault, s.fcode, s.result)) = some (true, 0x01, 0) := by decide

/-- L2-R. -/
theorem test_reset :
    field (step { stopped 0x06 (sleeping 77 2) with hpc := 4, mode := ⟨0, 0xDB, 0⟩, sched := [.reset] })
      (fun s => (statusByte s, clkctlByte s, s.fcode, s.hpc, s.mode)) = some (0x00, 0x00, 0x00, 0, ⟨0, 0, 0⟩) := by decide

/-! ### Witnesses: states and operands that meet the hypotheses of the obligations, clause by clause -/

theorem test_witness_DecodeFollowsTheOpcodeMap :
    (0x10000000 : Word) &&& 0xFFFFFFFF = 0x10000000 ∧ (0x20000000 : Word) &&& 0xFFFFFFFF = 0x20000000 ∧
    (0x30000000 : Word) &&& 0xFFFFFFFF = 0x30000000 ∧ (0x40FFFFFF : Word) &&& 0xFF000000 = 0x40000000 ∧
    (0x50FFFFFF : Word) &&& 0xFF000000 = 0x50000000 ∧ (0x60FFFFFF : Word) &&& 0xFF000000 = 0x60000000 ∧
    (0x70FFFFFF : Word) &&& 0xFF000000 = 0x70000000 ∧ (0x80FF0000 : Word) &&& 0xFF00FFFF = 0x80000000 ∧
    (0x90FF0000 : Word) &&& 0xFF00FFFF = 0x90000000 ∧ (0xA0000000 : Word) &&& 0xFFFFFFFF = 0xA0000000 ∧
    (0xB0000000 : Word) &&& 0xFFFFFFFF = 0xB0000000 ∧ ∀ r ∈ opcodeMap, (0xC0000000 : Word) &&& r.mask ≠ r.pattern := by
  decide

theorem test_witness_IllegalWordsLatchIllegalCmd :
    decode 0x11000000 = .error .reservedBits ∧ State.reset.fault = false ∧ State.reset.busy = false :=
  ⟨rfl, rfl, rfl⟩

theorem test_witness_DecodeOfEncodeIsTheCommand :
    (Instr.pwmSetDuty 255 65535).WellFormed ∧ (Instr.pwmEnable 0 0).WellFormed ∧ (Instr.sleepUs 16777215).WellFormed := by
  decide

theorem test_witness_EncodeOfDecodeIsTheWord : decode 0x60FFFFFF = .ok (.pwmEnable 255 65535) := rfl

theorem test_witness_BytesAreLittleEndian :
    (0 < 4 ∧ windowByte (0x04 + 0) { State.reset with result := 0x04030201 } = 0x01) ∧
    (3 < 4 ∧ windowByte (0x04 + 3) { State.reset with result := 0x04030201 } = 0x04) := by decide

theorem test_witness_AssemblerGivesTheTabledWords :
    asmPinValue (.digital 19) = some 19 ∧ asmPinValue (.analog 5) = some 19 ∧ asmPinValue (.number 255) = some 255 ∧
    assemble (.sleepMs 16777215) = some 0x40FFFFFF ∧ assemble (.sleepUs 16777216) = none ∧
    assemble (.pwmSetDuty (.number 255) 65535) = some 0x70FFFFFF ∧ assemble (.pwmSetDuty (.number 255) 65536) = none ∧
    asmPinValue (.digital 20) = none ∧ asmPinValue (.analog 6) = none ∧ asmPinValue (.number 256) = none ∧
    readNumber "16777215".toList = some 16777215 ∧ readNumber "0xFF".toList = some 255 ∧
    readPin "D19".toList = some (.digital 19) ∧ readPin "A5".toList = some (.analog 5) := by
  decide

/-- The table of the model is the one R13 gives, so the premise it asks for is met. -/
theorem test_witness_PinMapHasExactlyTheSixPins : IsPinMapOfR13 pwmPinMap := by
  intro pin ch
  unfold pwmPinMap
  split <;> simp_all [pinMapRows, eq_comm]

theorem test_witness_StepIsTheChosenEvent :
    (at' .reset).sched = .reset :: [] ∧ State.reset.sched = [] := ⟨rfl, rfl⟩

theorem test_witness_HostStepRunsTheDecodedCommand :
    (let s := issuing 0x10000000 State.reset
     chosen s = .agent .host ∧ s.prog[s.hpc]? = some 0x10000000 ∧ s.busy = false ∧ s.fault = false ∧
       decode 0x10000000 = .ok .clkInit) ∧
    (let s := issuing 0xC0000000 State.reset
     chosen s = .agent .host ∧ s.prog[s.hpc]? = some 0xC0000000 ∧ s.busy = false ∧ s.fault = false ∧
       decode 0xC0000000 = .error .unusedOpcode) ∧
    (let s := turn .host State.reset
     chosen s = .agent .host ∧ s.prog.length ≤ s.hpc) ∧
    (let s := issuing 0x10000000 (sleeping 0 2)
     chosen s = .agent .host ∧ s.busy = true) ∧
    (let s := issuing 0x10000000 (stopped 0x03 State.reset)
     chosen s = .agent .host ∧ s.fault = true) :=
  ⟨⟨rfl, rfl, rfl, rfl, rfl⟩, ⟨rfl, rfl, rfl, rfl, rfl⟩, ⟨rfl, by decide⟩, ⟨rfl, rfl⟩, ⟨rfl, rfl⟩⟩

theorem test_witness_IssueChecksInOrder :
    (stopped 0x03 State.reset).fault = true ∧
    ((sleeping 0 2).fault = false ∧ (sleeping 0 2).busy = true) ∧
    (State.reset.fault = false ∧ State.reset.busy = false ∧ decode 0x00000000 = .error .unusedOpcode ∧
      decode 0xA0000000 = .ok .irqOff) ∧
    pwmPinMap 12 = none ∧ pwmPinMap 256 = none ∧
    (pwmPinMap 9 = some ⟨.p1, .A⟩ ∧ channelOn State.reset ⟨.p1, .A⟩ = false) ∧
    State.reset.gie = false ∧
    ({ State.reset with gie := true }.gie = true ∧ { State.reset with gie := true }.run = false) ∧
    (clock 0 0 false).run = true :=
  ⟨rfl, ⟨rfl, rfl⟩, ⟨rfl, rfl, rfl, rfl⟩, rfl, rfl, ⟨rfl, rfl⟩, rfl, ⟨rfl, rfl⟩, rfl⟩

theorem test_witness_StepStopsExactlyAtForeignBusAccesses :
    chosen (at' (.busRead 4 2)) = .busRead 4 2 ∧ chosen (at' (.busRead 4 0)) = .busRead 4 0 ∧
    chosen (at' (.busWrite 0 [])) = .busWrite 0 [] ∧ chosen (at' (.busWrite 0 [1, 2])) = .busWrite 0 [1, 2] ∧
    chosen (at' (.busRead (-1) 1)) = .busRead (-1) 1 ∧ chosen (at' (.busRead 32 1)) = .busRead 32 1 ∧
    chosen (at' (.busWrite (-1) [7])) = .busWrite (-1) [7] ∧ chosen (at' (.busWrite 32 [7])) = .busWrite 32 [7] ∧
    step (at' (.busRead 32 1)) = .fault .outsideWindow ∧ step (at' (.busWrite 0 [1, 2])) = .refused .accessWidth :=
  ⟨rfl, rfl, rfl, rfl, rfl, rfl, rfl, rfl, rfl, rfl⟩

theorem test_witness_WindowStandsAtBase :
    windowOffset (offsetOfAddress (Config.base + 31)) = some 31 ∧
    windowOffset (offsetOfAddress (Config.base + 32)) = none := by
  constructor <;> simp [offsetOfAddress, windowOffset]

theorem test_witness_BusReadReturnsTheRegister :
    chosen (at' (.busRead 0 1)) = .busRead ((0 : Nat) : Int) 1 ∧
    chosen (at' (.busRead 31 1)) = .busRead ((31 : Nat) : Int) 1 := ⟨rfl, rfl⟩

theorem test_witness_BusWriteReachesOnlyTheLatches :
    chosen (at' (.busWrite 0 [5])) = .busWrite 0 [5] ∧ chosen (at' (.busWrite 1 [5])) = .busWrite 1 [5] ∧
    chosen (at' (.busWrite 2 [5])) = .busWrite 2 [5] ∧ chosen (at' (.busWrite 3 [5])) = .busWrite 3 [5] ∧
    chosen (at' (.busWrite 4 [5])) = .busWrite 4 [5] ∧ chosen (at' (.busWrite 31 [5])) = .busWrite 31 [5] := by decide

theorem test_witness_ClkInitStartsTheClock :
    State.reset.run = false ∧ (clock 0 0 false).run = true := by decide

theorem test_witness_SleepMsBeginsTheSleep :
    (0 ≤ 16777215 ∧ 16777215 ≤ 16777215) ∧ State.reset.gie = false ∧
    ({ State.reset with gie := true }.gie = true ∧ { State.reset with gie := true }.run = false) ∧
    ((clock 0 0 false).gie = true ∧ (clock 0 0 false).run = true) := by decide

theorem test_witness_SleeperConsumesOneStep :
    (let s := turn .sleeper (sleeping 250 1)
     chosen s = .agent .sleeper ∧ s.busy = true ∧ s.slpRem ≠ 0 ∧ Config.sleepStepUs ≤ (usNow s - s.slpStart).toNat) ∧
    (let s := turn .sleeper (sleeping 249 1)
     chosen s = .agent .sleeper ∧ (usNow s - s.slpStart).toNat < Config.sleepStepUs) ∧
    (let s := turn .sleeper (clock 1 250 false)
     chosen s = .agent .sleeper ∧ s.busy = false) := by decide

theorem test_witness_SleepUsChangesNothing : 0 ≤ 16777215 ∧ 16777215 ≤ 16777215 := by decide

/-- One ISR_CM step between the two reads. -/
theorem test_witness_MsReadsDifferByTheServices :
    let s := turn .isrCm { clock 0 0 false with cmPend := true, ms := 0xFFFFFFFF }
    Path (fun u => chosen u ≠ .reset ∧ executed u ≠ some .clkInit) (fun u => (takes .isrCm u).toNat) s 1 (after s) ∧
    exec .msRead s = .next { s with result := 0xFFFFFFFF } ∧
    exec .msRead (after s) = .next { after s with result := 0 } :=
  ⟨.head (by decide) rfl (.refl _), rfl, rfl⟩

/-- One RAWSTEP step, through the overflow, between the two reads. -/
theorem test_witness_UsReadsDifferByTheRawSteps :
    let s := turn .rawStep (clock 7 255 false)
    Path (fun u => chosen u ≠ .reset ∧ executed u ≠ some .clkInit ∧
        (u.ovfPend = true → u.raw.toNat < Config.pendLowLimit))
      (fun u => (takes .rawStep u).toNat) s 1 (after s) ∧
    ((after s).ovfPend = true ∧ (after s).raw.toNat < Config.pendLowLimit) ∧
    exec .usRead s = .next { s with result := 8188 } ∧
    exec .usRead (after s) = .next { after s with result := 8192 } :=
  ⟨.head (by decide) rfl (.refl _), by decide, rfl, rfl⟩

theorem test_witness_PendingOverflowReadsAsServiced :
    let s := clock 0xFFFFFFFF 254 true
    s.ovfPend = true ∧ s.raw.toNat < Config.pendLowLimit ∧
    exec .usRead s = .next { s with result := usNow s } := ⟨rfl, by decide, rfl⟩

/-- A sleep of one step, an overflow service that moves usNow past its end, and the SLEEPER step that ends it. -/
theorem test_witness_SleepMsIsNotEarly :
    let s := { clock 0 255 true with
      prog := [0x40000001], sched := [.agent .host, .agent .isrOvf, .agent .sleeper] }
    executed s = some (.sleepMs 1) ∧ s.gie = true ∧ s.run = true ∧ step s = .next (after s) ∧
    Path (fun u => u.busy = true ∧ chosen u ≠ .reset) (fun _ => 0) (after s) 0 (after (after s)) ∧
    (after (after s)).busy = true ∧ chosen (after (after s)) ≠ .reset ∧
    step (after (after s)) = .next (after (after (after s))) ∧ (after (after (after s))).busy = false ∧
    (1 - 1) * Config.sleepStepUs + (usNow (after (after s)) - (after (after s)).slpStart).toNat < 2 ^ 32 :=
  ⟨by decide, rfl, rfl, rfl, .head (by decide) rfl (.refl _), by decide, by decide, rfl, by decide, by decide⟩

theorem test_witness_UnservicedOverflowsLoseTicks :
    (let s := turn .rawStep (clock 0 255 true)
     chosen s = .agent .rawStep ∧ s.run = true ∧ s.raw = 255 ∧ s.ovfPend = true) ∧
    (let s := turn .rawStep (clock 0 254 true)
     chosen s = .agent .rawStep ∧ s.run = true ∧ s.raw = 254 ∧ s.ovfPend = true) := by decide

theorem test_witness_PwmEnableSetsItsOwnChannel :
    (255 ≤ 255 ∧ 65535 ≤ 65535) ∧ pwmPinMap 4 = none ∧ pwmPinMap 9 = some ⟨.p1, .A⟩ := by decide

theorem test_witness_PwmSetDutyWritesItsOwnDuty :
    pwmPinMap 0 = none ∧ pwmPinMap 9 = some ⟨.p1, .A⟩ ∧ channelOn State.reset ⟨.p1, .A⟩ = false ∧
    channelOn d9On ⟨.p1, .A⟩ = true := by decide

theorem test_witness_PwmDisableClearsItsOwnChannel : pwmPinMap 19 = none ∧ pwmPinMap 9 = some ⟨.p1, .A⟩ := by decide

theorem test_witness_PwmGetDutyReturnsTheSetDuty : pwmPinMap 255 = none ∧ pwmPinMap 9 = some ⟨.p1, .A⟩ := by decide

theorem test_witness_PwmTickCountsThePeriod :
    (let s := turn (.pwmTick .p0) (bothOn 254)
     chosen s = .agent (.pwmTick .p0) ∧ (pairGet s.mode .p0).toNat % 8 = 0) ∧
    (let s := turn (.pwmTick .p1) (bothOn 254)
     chosen s = .agent (.pwmTick .p1) ∧ (pairGet s.mode .p1).toNat % 8 ≠ 0 ∧ pairGet s.pcnt .p1 ≠ 255) ∧
    (let s := turn (.pwmTick .p1) (bothOn 255)
     chosen s = .agent (.pwmTick .p1) ∧ (pairGet s.mode .p1).toNat % 8 ≠ 0 ∧ pairGet s.pcnt .p1 = 255) := by decide

/-- Both invariants hold of two channels of one pair Enabled, with a sleep in progress and a fault latched. -/
def busyPwm : State :=
  { stopped 0x07 (sleeping 0 2) with mode := ⟨0, 0xDB, 0⟩, buf := ⟨0, 0, 200, 50, 0, 0⟩ }

theorem test_witness_LegalFieldsAreKept :
    LegalFields busyPwm ∧ LegalFields State.reset ∧ step (turn .sleeper busyPwm) = .next (after (turn .sleeper busyPwm)) :=
  ⟨⟨by rintro (_ | _ | _) <;> decide, by decide, by decide⟩,
   ⟨by rintro (_ | _ | _) <;> decide, by decide, by decide⟩, rfl⟩

theorem test_witness_ReachableInvIsKept :
    ReachableInv busyPwm ∧ step (turn .rawStep busyPwm) = .next (after (turn .rawStep busyPwm)) :=
  ⟨⟨by rintro ⟨_ | _ | _, _ | _⟩ <;> decide, by rintro ⟨_ | _ | _, _ | _⟩ <;> decide,
    by rintro (_ | _ | _) <;> decide, by decide, by decide⟩, rfl⟩

/-- PWM_ENABLE on a pair whose shared group is still idle: the last clause's premise is met too. -/
theorem test_witness_PwmCommandsIsolateTheSibling :
    pinOperand (.pwmEnable 9 255) = some 9 ∧ pwmPinMap 9 = some ⟨.p1, .A⟩ ∧ LegalFields State.reset ∧
    exec (.pwmEnable 9 255) State.reset = .next (nextOr State.reset (exec (.pwmEnable 9 255) State.reset)) ∧
    (pairGet (nextOr State.reset (exec (.pwmEnable 9 255) State.reset)).mode .p1).toNat % 32 ≠
      (pairGet State.reset.mode .p1).toNat % 32 :=
  ⟨rfl, rfl, test_witness_LegalFieldsAreKept.2.1, rfl, by decide⟩

theorem test_witness_ChannelsFollowTheStateMachine :
    pwmPinMap 9 = some ⟨.p1, .A⟩ ∧ ReachableInv busyPwm ∧ channelDuty busyPwm ⟨.p1, .A⟩ = some 200 ∧
    ReachableInv State.reset ∧ channelDuty State.reset ⟨.p1, .A⟩ = none :=
  ⟨rfl, test_witness_ReachableInvIsKept.1, rfl,
   ⟨by rintro ⟨_ | _ | _, _ | _⟩ <;> decide, by rintro ⟨_ | _ | _, _ | _⟩ <;> decide,
    by rintro (_ | _ | _) <;> decide, by decide, by decide⟩, rfl⟩

theorem test_witness_OnlyPwmCommandsChangeModeAndDuty :
    let s := issuing 0x600900C8 State.reset
    step s = .next (after s) ∧ (after s).mode ≠ s.mode ∧ (after s).buf ≠ s.buf := ⟨rfl, by decide, by decide⟩

theorem test_witness_OnlyPwmTicksChangeTheWaveform :
    let s := turn (.pwmTick .p1) (bothOn 255)
    step s = .next (after s) ∧ chosen s ≠ .reset ∧ pairGet (after s).pcnt .p1 ≠ pairGet s.pcnt .p1 ∧
    chanGet (after s).act ⟨.p1, .B⟩ ≠ chanGet s.act ⟨.p1, .B⟩ := ⟨rfl, by decide, by decide, by decide⟩

theorem test_witness_SharedGroupStaysSet :
    let s := issuing 0x80090000 d9On
    step s = .next (after s) ∧ chosen s ≠ .reset ∧ modeWgm (pairGet s.mode .p1) = Config.wgmPwm ∧
    modeCs (pairGet s.mode .p1) = Config.csPwm := ⟨rfl, by decide, by decide, by decide⟩

theorem test_witness_RawStepCountsAndOverflows :
    (chosen (turn .rawStep State.reset) = .agent .rawStep ∧ (turn .rawStep State.reset).run = false) ∧
    (chosen (turn .rawStep (clock 0 254 false)) = .agent .rawStep ∧ (clock 0 254 false).run = true ∧
      (clock 0 254 false).raw ≠ 255) ∧
    (clock 0 255 false).run = true ∧ (clock 0 255 false).raw = 255 := by decide

theorem test_witness_CmEventSetsItsFlag :
    chosen (turn .cmEvent State.reset) = .agent .cmEvent ∧ (turn .cmEvent State.reset).run = false ∧
    chosen (turn .cmEvent (clock 0 0 false)) = .agent .cmEvent ∧ (turn .cmEvent (clock 0 0 false)).run = true := by decide

theorem test_witness_IsrOvfServicesTheOverflow :
    (let s := turn .isrOvf (clock 0xFFFFFFFF 3 true)
     chosen s = .agent .isrOvf ∧ s.gie = true ∧ s.tieOvf = true ∧ s.ovfPend = true) ∧
    (let s := turn .isrOvf (clock 0 3 false)
     chosen s = .agent .isrOvf ∧ s.ovfPend = false) := by decide

theorem test_witness_IsrCmServicesTheMatch :
    (let s := turn .isrCm { clock 0 0 false with cmPend := true }
     chosen s = .agent .isrCm ∧ s.gie = true ∧ s.tieCm = true ∧ s.cmPend = true) ∧
    (let s := turn .isrCm { clock 0 0 false with cmPend := true, gie := false }
     chosen s = .agent .isrCm ∧ s.gie = false) := by decide

theorem test_witness_ServicesCommute :
    let s := { clock 2 0 true with cmPend := true, ms := 3 }
    isrOvfEnabled s = true ∧ isrCmEnabled s = true := by decide

theorem test_witness_PendingFlagsHaveTheirOwnWriters :
    (let s := turn .rawStep (clock 0 255 false)
     step s = .next (after s) ∧ chosen s ≠ .reset ∧ s.ovfPend = false ∧ (after s).ovfPend = true) ∧
    (let s := turn .isrOvf (clock 0 0 true)
     step s = .next (after s) ∧ chosen s ≠ .reset ∧ s.ovfPend = true ∧ (after s).ovfPend = false) ∧
    (let s := turn .cmEvent (clock 0 0 false)
     step s = .next (after s) ∧ chosen s ≠ .reset ∧ s.cmPend = false ∧ (after s).cmPend = true) ∧
    (let s := turn .isrCm { clock 0 0 false with cmPend := true }
     step s = .next (after s) ∧ chosen s ≠ .reset ∧ s.cmPend = true ∧ (after s).cmPend = false) :=
  ⟨⟨rfl, by decide, rfl, rfl⟩, ⟨rfl, by decide, rfl, rfl⟩, ⟨rfl, by decide, rfl, rfl⟩, ⟨rfl, by decide, rfl, rfl⟩⟩

theorem test_witness_EnablesHaveTheirOwnWriters :
    (let s := issuing 0x10000000 State.reset
     step s = .next (after s) ∧ chosen s ≠ .reset ∧ s.run = false ∧ (after s).run = true ∧ s.tieOvf = false ∧
       (after s).tieOvf = true ∧ s.tieCm = false ∧ (after s).tieCm = true ∧ s.gie = false ∧ (after s).gie = true) ∧
    (let s := issuing 0xA0000000 (clock 0 0 false)
     step s = .next (after s) ∧ chosen s ≠ .reset ∧ s.run = true ∧ s.tieOvf = true ∧ s.tieCm = true ∧ s.gie = true ∧
       (after s).gie = false) :=
  ⟨⟨rfl, by decide, rfl, rfl, rfl, rfl, rfl, rfl, rfl, rfl⟩, ⟨rfl, by decide, rfl, rfl, rfl, rfl, rfl⟩⟩

theorem test_witness_CountersHaveTheirOwnWriters :
    step (turn .isrOvf (clock 0xFFFFFFFF 0 true)) = .next (after (turn .isrOvf (clock 0xFFFFFFFF 0 true))) ∧
    (after (turn .isrOvf (clock 0xFFFFFFFF 0 true))).tick = 0 := ⟨rfl, rfl⟩

theorem test_witness_OnlyReadingCommandsChangeResult :
    let s := issuing 0x90090000 d9On
    step s = .next (after s) ∧ (after s).result ≠ s.result := ⟨rfl, by decide⟩

theorem test_witness_SleepRunsToCompletion :
    let s := turn .sleeper (sleeping 250 1)
    step s = .next (after s) ∧ s.busy = true ∧ chosen s ≠ .reset ∧ (after s).busy = false ∧
    (after s).slpRem ≠ s.slpRem := ⟨rfl, rfl, by decide, by decide, by decide⟩

theorem test_witness_FaultsArePreciseAndSticky :
    (exec (.pwmDisable 4) d9On = .next (stopped 0x02 d9On) ∧ d9On.fault = false ∧ (stopped 0x02 d9On).fault = true) ∧
    (let s := issuing 0x10000000 (stopped 0x03 State.reset)
     step s = .next (after s) ∧ s.fault = true ∧ chosen s ≠ .reset) ∧
    Agent.pwmTick .p2 ≠ .host :=
  ⟨⟨rfl, rfl, rfl⟩, ⟨rfl, rfl, by decide⟩, by decide⟩

theorem test_witness_ResetZeroesEveryElement : chosen { busyPwm with sched := [.reset] } = .reset := rfl

theorem test_witness_AfterResetOnlyTheHostCanStep :
    Agent.rawStep ≠ .host ∧ agentEnabled .rawStep busyPwm = true ∧ agentEnabled (.pwmTick .p1) busyPwm = true := by decide

theorem test_witness_FinishedStaysFinished :
    let s := { issuing 0x10000000 (clock 3 255 true) with hpc := 1, sched := [.agent .rawStep] }
    finished s = true ∧ chosen s = .agent .rawStep ∧ step s = .next (after s) := ⟨rfl, rfl, rfl⟩

/-- A round robin over the nine agents. -/
def roundRobin (n : Nat) : Event :=
  .agent (match n % 9 with
    | 0 => .host | 1 => .rawStep | 2 => .cmEvent | 3 => .isrOvf | 4 => .isrCm | 5 => .sleeper
    | 6 => .pwmTick .p0 | 7 => .pwmTick .p1 | _ => .pwmTick .p2)

/-- The run of the round robin from the running clock. -/
def robinRun : Nat → State
  | 0 => clock 0 0 false
  | n + 1 => nextOr (robinRun n) (runEvent (roundRobin n) (robinRun n))

theorem test_witness_FairRunsKeepCounting :
    IsRun roundRobin robinRun ∧ WeaklyFair roundRobin robinRun ∧ (∀ m, roundRobin m ≠ .reset) ∧
    (robinRun 0).run = true := by
  refine ⟨fun n => ?_, fun a n _ => ?_, fun m h => (by cases h), rfl⟩
  · obtain ⟨t, ht⟩ : ∃ t, runEvent (roundRobin n) (robinRun n) = .next t := agentTurn_next _ _
    rw [robinRun, ht]
    rfl
  · have h : ∀ k, (9 * n + k) % 9 = k % 9 := fun k => by omega
    cases a with
    | host => exact ⟨9 * n + 0, by omega, by simp [roundRobin]⟩
    | rawStep => exact ⟨9 * n + 1, by omega, by simp [roundRobin, h]⟩
    | cmEvent => exact ⟨9 * n + 2, by omega, by simp [roundRobin, h]⟩
    | isrOvf => exact ⟨9 * n + 3, by omega, by simp [roundRobin, h]⟩
    | isrCm => exact ⟨9 * n + 4, by omega, by simp [roundRobin, h]⟩
    | sleeper => exact ⟨9 * n + 5, by omega, by simp [roundRobin, h]⟩
    | pwmTick p =>
      cases p with
      | p0 => exact ⟨9 * n + 6, by omega, by simp [roundRobin, h]⟩
      | p1 => exact ⟨9 * n + 7, by omega, by simp [roundRobin, h]⟩
      | p2 => exact ⟨9 * n + 8, by omega, by simp [roundRobin, h]⟩

/-- The run in which HOST alone takes every turn, from a state. -/
def hostRun (s : State) : Nat → State
  | 0 => s
  | n + 1 => nextOr (hostRun s n) (runEvent (.agent .host) (hostRun s n))

theorem hostRun_isRun (s : State) : IsRun (fun _ => .agent .host) (hostRun s) := by
  intro n
  obtain ⟨t, ht⟩ : ∃ t, runEvent (.agent .host) (hostRun s n) = .next t := agentTurn_next _ _
  rw [hostRun, ht]
  rfl

/-- Once HOST holds, it holds in every later moment. -/
theorem hostRun_holds (s : State) (h : hostEnabled (hostRun s 1) = false) (n : Nat) :
    hostRun s (n + 1) = hostRun s 1 := by
  induction n with
  | zero => rfl
  | succ n ih =>
    rw [hostRun, ih]
    simp [runEvent, agentTurn, agentEnabled, h, nextOr]

/-- A run that ends at moment 1, with one command executed. -/
theorem test_witness_RunsEndAtTheFirstFinishedState_ends :
    IsRunOf [0x10000000] (fun _ => .agent .host) (hostRun { State.reset with prog := [0x10000000] }) ∧
    EndsAt (hostRun { State.reset with prog := [0x10000000] }) 1 ∧
    (let s := hostRun { State.reset with prog := [0x10000000] } 1
     s.hpc = [(0x10000000 : Word)].length ∧ s.busy = false ∧ s.fault = false) :=
  ⟨⟨hostRun_isRun _, rfl⟩, ⟨by decide, fun m hm => by obtain rfl : m = 0 := by omega
                                                      decide⟩, by decide⟩

/-- Runs without a final state: hpc never reaches n, BUSY stays 1 forever, a fault before the end. -/
theorem test_witness_RunsEndAtTheFirstFinishedState_never :
    (let r := hostRun { stopped 0x03 State.reset with prog := [0x10000000] }
     IsRunOf [0x10000000] (fun _ => .agent .host) r ∧ ∀ n, (r n).hpc ≠ [(0x10000000 : Word)].length) ∧
    (let r := hostRun { clock 0 0 false with prog := [0x40000001] }
     IsRunOf [0x40000001] (fun _ => .agent .host) r ∧ (∀ k, k < 1 → finished (r k) = false) ∧
       ∀ n, 1 ≤ n → (r n).busy = true) ∧
    (let r := hostRun { State.reset with prog := [0x00000000] }
     IsRunOf [0x00000000] (fun _ => .agent .host) r ∧ (∀ k, k < 1 → finished (r k) = false) ∧ (r 1).fault = true ∧
       ∀ n, 1 ≤ n → Event.agent .host ≠ .reset) := by
  refine ⟨⟨⟨hostRun_isRun _, rfl⟩, fun n => ?_⟩, ⟨⟨hostRun_isRun _, rfl⟩, fun k hk => ?_, fun n hn => ?_⟩,
    ⟨⟨hostRun_isRun _, rfl⟩, fun k hk => ?_, by decide, fun n _ h => by cases h⟩⟩
  · cases n with
    | zero => decide
    | succ n =>
      rw [hostRun_holds _ (by decide)]
      decide
  · obtain rfl : k = 0 := by omega
    decide
  · obtain ⟨m, rfl⟩ : ∃ m, n = m + 1 := ⟨n - 1, by omega⟩
    rw [hostRun_holds _ (by decide)]
    decide
  · obtain rfl : k = 0 := by omega
    decide

end Sys2Proof.Tests
end

section
/-! The output of a PWM channel (R28), read as a comparison of the pair's period counter with the channel's active value. -/

namespace Sys2Proof.Machine

theorem channelOn_eq (s : State) (ch : Channel) : channelOn s ch = modeOce (pairGet s.mode ch.pair) ch.side := rfl

/-- R28: a Disabled channel's output is 0 whatever ACT holds; an Enabled one's is the comparison. -/
theorem out_eq_true_iff (s : State) (ch : Channel) :
    out s ch = true ↔
      channelOn s ch = true ∧ (pairGet s.pcnt ch.pair).toNat < (chanGet s.act ch).toNat := by
  rw [out, Bool.and_eq_true, decide_eq_true_iff]

/-- Settles O36: the output is the comparison gated by the channel's OCE bit. -/
theorem outputComparesTheActiveValue : Obligations.OutputComparesTheActiveValue := by
  intro s ch
  rw [← channelOn_eq]
  exact out_eq_true_iff s ch

end Sys2Proof.Machine
end

section
/-! A byte read of the register window (R33): the window's 32 bytes as a list, each field's byte as a number, and the step
that returns one of them to the host. -/

namespace Sys2Proof.Machine

/-- Byte k of a word, as the number the bus returns (R36). -/
theorem wordByte_eq_ofNat (w : Word) (k : Nat) : wordByte w k = BitVec.ofNat 8 (w.toNat / 2 ^ (8 * k)) := by
  apply BitVec.eq_of_toNat_eq
  rw [wordByte, BitVec.extractLsb'_toNat, BitVec.toNat_ofNat, Nat.shiftRight_eq_div_pow]

/-- STATUS as the sum of its flags' weights (R31). -/
theorem statusByte_eq_ofNat (s : State) :
    statusByte s = BitVec.ofNat 8 (s.busy.toNat + 2 * s.fault.toNat + 4 * s.gie.toNat) := by
  rw [statusByte]
  generalize s.busy = busy, s.fault = fault, s.gie = gie
  decide +revert

/-- CLKCTL as the sum of its flags' weights (R31). -/
theorem clkctlByte_eq_ofNat (s : State) :
    clkctlByte s = BitVec.ofNat 8 (s.run.toNat + 2 * s.tieOvf.toNat + 4 * s.tieCm.toNat + 8 * s.ovfPend.toNat
      + 16 * s.cmPend.toNat) := by
  rw [clkctlByte]
  generalize s.run = run, s.tieOvf = tieOvf, s.tieCm = tieCm, s.ovfPend = ovfPend, s.cmPend = cmPend
  decide +revert

/-- The tabled bytes of the window in the order of their offsets (R31); the reserved offsets after PCNT2 are left out. -/
def windowBytes (s : State) : List Byte :=
  [0x00, 0x00, 0x00, 0x00, wordByte s.result 0, wordByte s.result 1, wordByte s.result 2, wordByte s.result 3,
    statusByte s, s.fcode, clkctlByte s, s.raw, s.mode.p0, s.mode.p1, s.mode.p2, 0x00,
    s.buf.c0A, s.buf.c0B, s.buf.c1A, s.buf.c1B, s.buf.c2A, s.buf.c2B, s.pcnt.p0, s.pcnt.p1, s.pcnt.p2]

/-- R31, offset by offset. -/
theorem windowByte_eq_getD (s : State) {k : Nat} (hk : k < 32) : windowByte k s = (windowBytes s).getD k 0x00 := by
  interval_cases k <;> rfl

@[simp] theorem windowBytes_consume (s : State) : windowBytes (consume s) = windowBytes s := by
  simp [windowBytes, statusByte, clkctlByte]

theorem windowOffset_ofNat {k : Nat} (hk : k < 32) : windowOffset k = some k := by
  rw [windowOffset, if_pos (by omega), Int.toNat_natCast]

/-- R33: a one-byte read inside the window hands the host that offset's byte and changes nothing else. -/
theorem memRead_one {k : Nat} (hk : k < 32) (s : State) :
    memRead k 1 s = .next { s with hostRead := some ((windowBytes s).getD k 0x00) } := by
  simp only [memRead, windowOffset_ofNat hk, windowByte_eq_getD s hk, ne_eq, not_true_eq_false, if_false]

/-- Settles O15: the step is the read, and the bytes of RESULT, STATUS and CLKCTL are the tabled numbers. -/
theorem busReadReturnsTheRegister : Obligations.BusReadReturnsTheRegister := by
  intro s k hk hc
  have hread : step s = .next { consume s with hostRead := some ((windowBytes s).getD k 0x00) } := by
    rw [step, hc, runEvent, memRead_one hk, windowBytes_consume]
  rw [hread, windowBytes, statusByte_eq_ofNat, clkctlByte_eq_ofNat]
  simp only [wordByte_eq_ofNat, Nat.mul_zero, Nat.pow_zero, Nat.div_one, Nat.reduceMul]

end Sys2Proof.Machine
end

section
/-! Decoding read off the opcode map (R48, R50): the operand fields as numbers, the command of the one row a word selects,
and the words that select no row. -/

namespace Sys2Proof

/-! ### The fields of a word as numbers (R46, R47) -/

theorem toNat_opField (w : Word) : (opField w).toNat = w.toNat / 2 ^ 28 := by
  rw [opField, BitVec.extractLsb'_toNat, Nat.shiftRight_eq_div_pow]
  omega

theorem toNat_rsvField (w : Word) : (rsvField w).toNat = w.toNat / 2 ^ 24 % 2 ^ 4 := by
  rw [rsvField, BitVec.extractLsb'_toNat, Nat.shiftRight_eq_div_pow]

theorem pinField_eq (w : Word) : pinField w = w.toNat / 2 ^ 16 % 2 ^ 8 := by
  rw [pinField, BitVec.extractLsb'_toNat, Nat.shiftRight_eq_div_pow]

theorem dutyField_eq (w : Word) : dutyField w = w.toNat % 2 ^ 16 := by
  rw [dutyField, BitVec.extractLsb'_toNat, Nat.shiftRight_zero]

theorem durField_eq (w : Word) : durField w = w.toNat % 2 ^ 24 := by
  rw [durField, BitVec.extractLsb'_toNat, Nat.shiftRight_zero]

/-! ### The one row a word selects -/

/-- Every row tests all of OP. -/
theorem opcodeMap_mask_op : ∀ r ∈ opcodeMap, r.mask &&& 0xF0000000 = 0xF0000000 := by decide

/-- No two rows ask for the same OP. -/
theorem opcodeMap_op_injective :
    ∀ r ∈ opcodeMap, ∀ q ∈ opcodeMap, r.pattern &&& 0xF0000000 = q.pattern &&& 0xF0000000 → r = q := by decide

/-- The OP bits of a word are those of the row it selects. -/
theorem op_of_selected {w : Word} {r : OpcodeRow} (hr : r ∈ opcodeMap) (h : w &&& r.mask = r.pattern) :
    r.pattern &&& 0xF0000000 = w &&& 0xF0000000 := by
  rw [← h, BitVec.and_assoc, opcodeMap_mask_op r hr]

/-- R48: at most one row matches any word. -/
theorem selected_unique {w : Word} {r q : OpcodeRow} (hr : r ∈ opcodeMap) (hq : q ∈ opcodeMap)
    (h : w &&& r.mask = r.pattern) (h' : w &&& q.mask = q.pattern) : r = q :=
  opcodeMap_op_injective r hr q hq ((op_of_selected hr h).trans (op_of_selected hq h').symm)

/-- A word decodes to the command of the row it selects. -/
theorem decode_of_selected {w : Word} {r : OpcodeRow} (hr : r ∈ opcodeMap) (h : w &&& r.mask = r.pattern) :
    decode w = .ok (readOperands r.op w) := by
  rw [decode_eq_elim]
  cases hf : opcodeMap.find? fun q => q.selects w with
  | none => exact absurd (beq_iff_eq.2 h) (List.find?_eq_none.1 hf r hr)
  | some q =>
    have hq : w &&& q.mask = q.pattern := by simpa [OpcodeRow.selects] using List.find?_some hf
    rw [selected_unique hr (List.mem_of_find?_eq_some hf) h hq, Option.elim_some]

/-- A word is rejected exactly when it selects no row. -/
theorem decode_error_iff (w : Word) :
    (∃ e, decode w = .error e) ↔ ∀ r ∈ opcodeMap, w &&& r.mask ≠ r.pattern := by
  constructor
  · rintro ⟨e, he⟩ r hr h
    exact absurd ((decode_of_selected hr h).symm.trans he) nofun
  · intro h
    have hf : opcodeMap.find? (fun r => r.selects w) = none :=
      List.find?_eq_none.2 fun r hr hs => h r hr (beq_iff_eq.1 hs)
    exact ⟨illegalReason w, by rw [decode_eq_elim, hf, Option.elim_none]⟩

/-- Settles O2: each clause is the row of the map it spells out, and a row is fixed by the OP bits it asks for. -/
theorem decodeFollowsTheOpcodeMap : Obligations.DecodeFollowsTheOpcodeMap := by
  refine ⟨fun w => ?_, fun w r q hr hq => selected_unique hr hq⟩
  rw [← pinField_eq, ← dutyField_eq, ← durField_eq]
  exact ⟨decode_of_selected (r := ⟨.clkInit, _, _⟩) (by decide),
    decode_of_selected (r := ⟨.msRead, _, _⟩) (by decide),
    decode_of_selected (r := ⟨.usRead, _, _⟩) (by decide),
    decode_of_selected (r := ⟨.sleepMs, _, _⟩) (by decide),
    decode_of_selected (r := ⟨.sleepUs, _, _⟩) (by decide),
    decode_of_selected (r := ⟨.pwmEnable, _, _⟩) (by decide),
    decode_of_selected (r := ⟨.pwmSetDuty, _, _⟩) (by decide),
    decode_of_selected (r := ⟨.pwmDisable, _, _⟩) (by decide),
    decode_of_selected (r := ⟨.pwmGetDuty, _, _⟩) (by decide),
    decode_of_selected (r := ⟨.irqOff, _, _⟩) (by decide),
    decode_of_selected (r := ⟨.irqOn, _, _⟩) (by decide),
    (decode_error_iff w).2⟩

/-! ### The illegal words (R50) -/

/-- R50's grounds on the fields of a word. -/
theorem unselected_fieldsWord_iff (op rsv : BitVec 4) (hi : BitVec 8) (lo : BitVec 16) :
    (∀ r ∈ opcodeMap, fieldsWord op rsv hi lo &&& r.mask ≠ r.pattern) ↔
      (op.toNat = 0x0 ∨ 0xC ≤ op.toNat) ∨ rsv ≠ 0 ∨
      (op.toNat ∈ [0x1, 0x2, 0x3, 0xA, 0xB] ∧ ¬(hi = 0 ∧ lo = 0)) ∨ (op.toNat ∈ [0x8, 0x9] ∧ lo ≠ 0) := by
  rw [opcodeMap_fields]
  simp only [List.forall_mem_cons, List.not_mem_nil, false_imp_iff, implies_true, and_true, fieldsWord_and, ne_eq,
    fieldsWord_inj, and_f, and_ff, and_ffff, and_zero8, and_zero16, true_and]
  by_cases hr : rsv = 0
  · -- Of the low bits only whether they are 0 counts, which leaves the 16 values of OP.
    subst hr
    revert op
    by_cases hh : hi = 0 <;> by_cases hl : lo = 0 <;> simp only [hh, hl] <;> decide
  · simp only [hr, false_and, and_false, not_false_eq_true, true_or, or_true, and_self]

/-- R50: the illegal words, by their numeric fields. -/
theorem decode_error_iff_fields (w : Word) : (∃ e, decode w = .error e) ↔
    (w.toNat / 2 ^ 28 = 0x0 ∨ 0xC ≤ w.toNat / 2 ^ 28) ∨ w.toNat / 2 ^ 24 % 2 ^ 4 ≠ 0 ∨
    (w.toNat / 2 ^ 28 ∈ [0x1, 0x2, 0x3, 0xA, 0xB] ∧ w.toNat % 2 ^ 24 ≠ 0) ∨
    (w.toNat / 2 ^ 28 ∈ [0x8, 0x9] ∧ w.toNat % 2 ^ 16 ≠ 0) := by
  rw [decode_error_iff, ← toNat_opField, ← toNat_rsvField, ← durField_eq, ← dutyField_eq, ← fieldsWord_fields w]
  generalize opField w = op, rsvField w = rsv, w.extractLsb' 16 8 = hi, w.extractLsb' 0 16 = lo
  have hlow : hi.toNat * 2 ^ 16 + lo.toNat = 0 ↔ hi.toNat = 0 ∧ lo.toNat = 0 := by omega
  rw [unselected_fieldsWord_iff]
  simp only [opField_fieldsWord, rsvField_fieldsWord, durField_fieldsWord,
    dutyField_fieldsWord, ne_eq, hlow, BitVec.toNat_eq, BitVec.ofNat_eq_ofNat, BitVec.toNat_zero]

/-- Settles O3: the illegal words by their fields, and `execute`'s one answer to each of them. -/
theorem illegalWordsLatchIllegalCmd : Obligations.IllegalWordsLatchIllegalCmd := by
  refine ⟨decode_error_iff_fields, fun w e s he hf hb => ?_, illegalReason 0, rfl⟩
  rw [Machine.issue_of_ready w hf hb, Machine.execute, he]
  rfl

end Sys2Proof
end

section
/-! The assembler (R51, R52): the encoder's words as numbers, the operands a line rejects, numerals read back as their
values, and the line each mnemonic and its operands spell. -/

namespace Sys2Proof

/-! ### The encoder's words as numbers (R46) -/

theorem packWord_eq_ofNat (op : BitVec 4) (low : BitVec 24) :
    packWord op low = BitVec.ofNat 32 (op.toNat * 2 ^ 28 + low.toNat) := by
  apply BitVec.eq_of_toNat_eq
  have hop := op.isLt
  have hlow := low.isLt
  rw [packWord_eq, fieldsWord_toNat, BitVec.toNat_ofNat, BitVec.extractLsb'_toNat, BitVec.extractLsb'_toNat,
    Nat.shiftRight_eq_div_pow, Nat.shiftRight_zero, BitVec.ofNat_eq_ofNat, BitVec.toNat_zero]
  omega

/-- Bits [23:0] of formats P and Q as a number. -/
theorem packPin_toNat {pin : Nat} (h : pin < 256) (low : BitVec 16) :
    (packPin pin low).toNat = pin * 2 ^ 16 + low.toNat := by
  rw [packPin, BitVec.toNat_append, ← Nat.shiftLeft_add_eq_or_of_lt low.isLt, Nat.shiftLeft_eq,
    BitVec.toNat_ofNat, Nat.mod_eq_of_lt h]

/-- The word of format T. -/
theorem packWord_dur (op : BitVec 4) {dur : Nat} (h : dur ≤ 16777215) :
    packWord op (BitVec.ofNat 24 dur) = BitVec.ofNat 32 (op.toNat * 2 ^ 28 + dur) := by
  rw [packWord_eq_ofNat, BitVec.toNat_ofNat, Nat.mod_eq_of_lt (by omega)]

/-- The word of formats P and Q, the low half of Q being 0. -/
theorem packWord_pin (op : BitVec 4) {pin duty : Nat} (hp : pin < 256) (hd : duty ≤ 65535) :
    packWord op (packPin pin (BitVec.ofNat 16 duty)) = BitVec.ofNat 32 (op.toNat * 2 ^ 28 + pin * 2 ^ 16 + duty) := by
  rw [packWord_eq_ofNat, packPin_toNat hp, BitVec.toNat_ofNat, Nat.mod_eq_of_lt (by omega), Nat.add_assoc]

namespace Machine

/-! ### The word of a line, and the lines that have none -/

theorem asmPinValue_digital (n : Nat) : asmPinValue (.digital n) = if n ≤ 19 then some n else none := by
  simp only [asmPinValue, isLogicalPin, decide_eq_true_eq]
  rfl

theorem asmPinValue_analog (k : Nat) : asmPinValue (.analog k) = if k ≤ 5 then some (14 + k) else none := rfl

theorem asmPinValue_number (n : Nat) : asmPinValue (.number n) = if n ≤ 255 then some n else none := by
  simp only [asmPinValue, pinFits, decide_eq_true_eq, Nat.lt_succ_iff]

/-- A pin operand that is not rejected fits the field PIN. -/
theorem asmPinValue_lt {p : AsmPin} {n : Nat} (h : asmPinValue p = some n) : n < 256 := by
  cases p <;>
    simp only [asmPinValue_digital, asmPinValue_analog, asmPinValue_number, Option.ite_none_right_eq_some,
      Option.some.injEq] at h <;>
    omega

/-- A line that has a command has that command's word. -/
theorem assemble_of_asmInstr {l : AsmLine} {i : Instr} (h : asmInstr l = some i) : assemble l = some (encode i) := by
  cases l with
  | cmd w => simp [asmInstr] at h
  | _ => exact congrArg (Option.map encode) h

/-- Outside `.cmd` a line that has no command is rejected. -/
theorem assemble_eq_none {l : AsmLine} (hl : ∀ w, l ≠ .cmd w) (h : asmInstr l = none) : assemble l = none := by
  cases l with
  | cmd w => exact absurd rfl (hl w)
  | _ => exact congrArg (Option.map encode) h

theorem assemble_sleep {dur : Nat} (h : dur ≤ 16777215) :
    assemble (.sleepMs dur) = some (BitVec.ofNat 32 (0x40000000 + dur)) ∧
    assemble (.sleepUs dur) = some (BitVec.ofNat 32 (0x50000000 + dur)) := by
  have hf : durFits dur = true := decide_eq_true (by omega)
  have hms : asmInstr (.sleepMs dur) = some (.sleepMs dur) := if_pos hf
  have hus : asmInstr (.sleepUs dur) = some (.sleepUs dur) := if_pos hf
  rw [assemble_of_asmInstr hms, assemble_of_asmInstr hus, encode, encode, packWord_dur _ h, packWord_dur _ h]
  exact ⟨rfl, rfl⟩

theorem assemble_sleep_none {dur : Nat} (h : 16777215 < dur) :
    assemble (.sleepMs dur) = none ∧ assemble (.sleepUs dur) = none := by
  have hf : ¬durFits dur = true := by simp [durFits]; omega
  exact ⟨assemble_eq_none nofun (if_neg hf), assemble_eq_none nofun (if_neg hf)⟩

/-- The commands of a line with a pin and a duty, both in range. -/
theorem asmInstr_duty {p : AsmPin} {n duty : Nat} (hp : asmPinValue p = some n) (hd : duty ≤ 65535) :
    asmInstr (.pwmEnable p (some duty)) = some (.pwmEnable n duty) ∧
    asmInstr (.pwmSetDuty p duty) = some (.pwmSetDuty n duty) := by
  have hf : dutyFits duty = true := decide_eq_true (by omega)
  simp [asmInstr, hf, hp]

theorem assemble_duty {p : AsmPin} {n duty : Nat} (hp : asmPinValue p = some n) (hd : duty ≤ 65535) :
    assemble (.pwmEnable p (some duty)) = some (BitVec.ofNat 32 (0x60000000 + n * 2 ^ 16 + duty)) ∧
    assemble (.pwmSetDuty p duty) = some (BitVec.ofNat 32 (0x70000000 + n * 2 ^ 16 + duty)) := by
  obtain ⟨he, hs⟩ := asmInstr_duty hp hd
  have hn := asmPinValue_lt hp
  rw [assemble_of_asmInstr he, assemble_of_asmInstr hs, encode, encode, packWord_pin _ hn hd, packWord_pin _ hn hd]
  exact ⟨rfl, rfl⟩

theorem assemble_pin {p : AsmPin} {n : Nat} (hp : asmPinValue p = some n) :
    assemble (.pwmDisable p) = some (BitVec.ofNat 32 (0x80000000 + n * 2 ^ 16)) ∧
    assemble (.pwmGetDuty p) = some (BitVec.ofNat 32 (0x90000000 + n * 2 ^ 16)) := by
  have hn := asmPinValue_lt hp
  have hd : asmInstr (.pwmDisable p) = some (.pwmDisable n) := by simp [asmInstr, hp]
  have hg : asmInstr (.pwmGetDuty p) = some (.pwmGetDuty n) := by simp [asmInstr, hp]
  rw [assemble_of_asmInstr hd, assemble_of_asmInstr hg]
  exact ⟨congrArg some (packWord_pin 0x8 hn (Nat.zero_le _)), congrArg some (packWord_pin 0x9 hn (Nat.zero_le _))⟩

/-- R51: a pin operand outside its range is rejected in every line that has one. -/
theorem assemble_pin_none {p : AsmPin} (hp : asmPinValue p = none) :
    (∀ duty : Option Nat, assemble (.pwmEnable p duty) = none) ∧ (∀ duty, assemble (.pwmSetDuty p duty) = none) ∧
    assemble (.pwmDisable p) = none ∧ assemble (.pwmGetDuty p) = none := by
  refine ⟨fun duty => assemble_eq_none nofun ?_, fun duty => assemble_eq_none nofun ?_,
    assemble_eq_none nofun ?_, assemble_eq_none nofun ?_⟩
  · cases duty <;> simp [asmInstr, hp]
  all_goals simp [asmInstr, hp]

theorem assemble_duty_none (p : AsmPin) {duty : Nat} (hd : 65535 < duty) :
    assemble (.pwmEnable p (some duty)) = none ∧ assemble (.pwmSetDuty p duty) = none := by
  have hf : ¬dutyFits duty = true := by simp [dutyFits]; omega
  exact ⟨assemble_eq_none nofun (if_neg hf), assemble_eq_none nofun (if_neg hf)⟩

/-! ### Numerals (R51) -/

/-- A digit is read as its value. -/
theorem digitValue_digitChar {base v : Nat} (hb : base ≤ 16) (hv : v < base) :
    digitValue base v.digitChar = some v := by
  have h16 : v < 16 := by omega
  interval_cases v <;> exact if_pos hv

/-- The digits of a number are read as that number. -/
theorem readDigits_toDigits {base : Nat} (h1 : 1 < base) (hb : base ≤ 16) (n : Nat) :
    readDigits base 0 (Nat.toDigits base n) = some n := by
  induction n using Nat.strong_induction_on with
  | _ n ih =>
    rw [Nat.toDigits_eq_if h1]
    split
    next hlt => simp [readDigits, digitValue_digitChar hb hlt]
    next hge =>
      have hdiv : n / base < n := Nat.div_lt_self (by omega) h1
      rw [readDigits_append, ih _ hdiv]
      simp [readDigits, digitValue_digitChar hb (Nat.mod_lt n (by omega)), Nat.div_add_mod']

/-- Decimal digits never begin a `0x` number. -/
theorem readNumber_of_readDigits {cs : List Char} {n : Nat} (hne : cs ≠ []) (h : readDigits 10 0 cs = some n) :
    readNumber cs = some n := by
  unfold readNumber
  split
  next => exact absurd rfl hne
  next => simp [readDigits, digitValue] at h
  next => simp [readDigits, digitValue] at h
  next => exact h

theorem readNumber_hex {cs : List Char} (hne : cs ≠ []) : readNumber ('0' :: 'x' :: cs) = readDigits 16 0 cs := by
  cases cs with
  | nil => exact absurd rfl hne
  | cons c cs => rfl

/-- A number never begins with D or A, so as a pin operand it is a number. -/
theorem readPin_of_readNumber {cs : List Char} {n : Nat} (h : readNumber cs = some n) :
    readPin cs = some (.number n) := by
  unfold readPin
  split
  next => simp [readNumber, readDigits, digitValue] at h
  next => simp [readNumber, readDigits, digitValue] at h
  next => rw [h, Option.map_some]

theorem readPin_letter {cs : List Char} (hne : cs ≠ []) :
    readPin ('D' :: cs) = (readDigits 10 0 cs).map .digital ∧
    readPin ('A' :: cs) = (readDigits 10 0 cs).map .analog := by
  cases cs with
  | nil => exact absurd rfl hne
  | cons c cs => exact ⟨rfl, rfl⟩

/-- R51: decimal and `0x` numerals, alone and as pins, are read as their values. -/
theorem read_numerals (n : Nat) :
    readNumber (Nat.toDigits 10 n) = some n ∧ readNumber ('0' :: 'x' :: Nat.toDigits 16 n) = some n ∧
    readPin ('D' :: Nat.toDigits 10 n) = some (.digital n) ∧ readPin ('A' :: Nat.toDigits 10 n) = some (.analog n) ∧
    readPin (Nat.toDigits 10 n) = some (.number n) ∧ readPin ('0' :: 'x' :: Nat.toDigits 16 n) = some (.number n) := by
  have h10 : readDigits 10 0 (Nat.toDigits 10 n) = some n := readDigits_toDigits (by decide) (by decide) n
  have hdec : readNumber (Nat.toDigits 10 n) = some n := readNumber_of_readDigits Nat.toDigits_ne_nil h10
  have hhex : readNumber ('0' :: 'x' :: Nat.toDigits 16 n) = some n := by
    rw [readNumber_hex Nat.toDigits_ne_nil, readDigits_toDigits (by decide) (by decide)]
  obtain ⟨hD, hA⟩ := readPin_letter (cs := Nat.toDigits 10 n) Nat.toDigits_ne_nil
  rw [h10] at hD hA
  exact ⟨hdec, hhex, hD, hA, readPin_of_readNumber hdec, readPin_of_readNumber hhex⟩

/-! ### The text of a line (R51) -/

/-- Every spelling of the table is one unbroken piece of text. -/
theorem mnemonicTable_unbroken : ∀ row ∈ mnemonicTable, row.1 ≠ [] ∧ Unbroken row.1 := by
  simp [mnemonicTable, Unbroken]

/-- Every spelling of the table is read as its mnemonic. -/
theorem readMnemonic_of_mem : ∀ row ∈ mnemonicTable, readMnemonic row.1 = some row.2 := by decide

/-- A mnemonic, a blank and one operand. -/
theorem parseLine_operand {m d : List Char} {k : Mnemonic} (hk : (m, k) ∈ mnemonicTable) (hd : d ≠ [] ∧ Unbroken d) :
    parseLine (m ++ ' ' :: d) = lineOf k [d] := by
  obtain ⟨hne, hu⟩ := mnemonicTable_unbroken _ hk
  rw [parseLine_one hne hd.1 hu hd.2, readMnemonic_of_mem _ hk, Option.bind_some]

/-- A mnemonic, a blank and two operands with a comma and a blank between them. -/
theorem parseLine_operands {m p d : List Char} {k : Mnemonic} (hk : (m, k) ∈ mnemonicTable)
    (hp : p ≠ [] ∧ Unbroken p) (hd : d ≠ [] ∧ Unbroken d) :
    parseLine (m ++ ' ' :: (p ++ ([',', ' '] ++ d))) = lineOf k [p, d] := by
  obtain ⟨hne, hu⟩ := mnemonicTable_unbroken _ hk
  rw [parseLine_two hne hp.1 hd.1 hu hp.2 hd.2, readMnemonic_of_mem _ hk, Option.bind_some]

theorem parseLine_number {d : List Char} {n : Nat} (h : readNumber d = some n) :
    parseLine ("sleep.ms ".toList ++ d) = some (.sleepMs n) ∧
    parseLine ("sleep.us ".toList ++ d) = some (.sleepUs n) ∧
    parseLine (".cmd ".toList ++ d) = some (.cmd n) := by
  have hd := readNumber_unbroken h
  have hline (make : Nat → AsmLine) : (readNumber d).map make = some (make n) := by rw [h, Option.map_some]
  exact ⟨(parseLine_operand (m := "sleep.ms".toList) (k := .sleepMs) (by decide) hd).trans (hline _),
    (parseLine_operand (m := "sleep.us".toList) (k := .sleepUs) (by decide) hd).trans (hline _),
    (parseLine_operand (m := ".cmd".toList) (k := .cmd) (by decide) hd).trans (hline _)⟩

theorem parseLine_pin {p : List Char} {q : AsmPin} (h : readPin p = some q) :
    parseLine ("pwm.enable ".toList ++ p) = some (.pwmEnable q none) ∧
    parseLine ("pwm.disable ".toList ++ p) = some (.pwmDisable q) ∧
    parseLine ("pwm.getduty ".toList ++ p) = some (.pwmGetDuty q) := by
  have hp := readPin_unbroken h
  have hline (make : AsmPin → AsmLine) : (readPin p).map make = some (make q) := by rw [h, Option.map_some]
  exact ⟨(parseLine_operand (m := "pwm.enable".toList) (k := .pwmEnable) (by decide) hp).trans (hline _),
    (parseLine_operand (m := "pwm.disable".toList) (k := .pwmDisable) (by decide) hp).trans (hline _),
    (parseLine_operand (m := "pwm.getduty".toList) (k := .pwmGetDuty) (by decide) hp).trans (hline _)⟩

theorem parseLine_pin_duty {p d : List Char} {q : AsmPin} {n : Nat} (h : readPin p = some q)
    (h' : readNumber d = some n) :
    parseLine ("pwm.enable ".toList ++ p ++ ", ".toList ++ d) = some (.pwmEnable q (some n)) ∧
    parseLine ("pwm.setduty ".toList ++ p ++ ", ".toList ++ d) = some (.pwmSetDuty q n) := by
  have hp := readPin_unbroken h
  have hd := readNumber_unbroken h'
  have hline (make : AsmPin → Nat → AsmLine) :
      ((readPin p).bind fun a => (readNumber d).map fun b => make a b) = some (make q n) := by
    rw [h, h', Option.bind_some, Option.map_some]
  rw [List.append_assoc, List.append_assoc, List.append_assoc, List.append_assoc]
  exact ⟨(parseLine_operands (m := "pwm.enable".toList) (k := .pwmEnable) (by decide) hp hd).trans
      (hline fun a b => .pwmEnable a (some b)),
    (parseLine_operands (m := "pwm.setduty".toList) (k := .pwmSetDuty) (by decide) hp hd).trans (hline _)⟩

/-- Settles O7, from the words of the lines, the rejected operands, the text of the lines and the numerals. -/
theorem assemblerGivesTheTabledWords : Obligations.AssemblerGivesTheTabledWords :=
  ⟨⟨rfl, rfl, rfl, rfl, rfl⟩, fun _ => assemble_sleep, fun _ => assemble_sleep_none,
    fun _ _ hp => ⟨fun _ hd => assemble_duty hp hd, assemble_pin hp⟩, fun _ => assemble_pin_none,
    fun p _ => assemble_duty_none p, fun _ => rfl, asmPinValue_digital, asmPinValue_analog, asmPinValue_number,
    fun _ => rfl, ⟨rfl, rfl, rfl, rfl, rfl⟩, fun _ _ => parseLine_number,
    fun _ _ hp =>
      let ⟨he, hd, hg⟩ := parseLine_pin hp
      ⟨he, hd, hg, fun _ _ hn => parseLine_pin_duty hp hn⟩,
    read_numerals, fun _ => rfl⟩

end Machine

end Sys2Proof
end

section
/-! The clock commands (R53 to R58): the effect of a command as what `exec` answers, the snapshot's microseconds as a number
(R10), and the turn of SLEEPER (R57). -/

namespace Sys2Proof.Machine

/-! ### A command's effect is its answer -/

/-- The converse of `effect_of_exec`: the conditions of a command's effects exclude each other, so an effect whose
condition holds is the one that `exec` answers. -/
theorem exec_of_effect {i : Instr} {s t : State} (h : CommandEffect s i t) : exec i s = .next t := by
  cases h with
  | initTwice hr | clkInit hr => simp [exec, execClkInit, hr]
  | sleepMasked _ hg => simp [exec, execSleepMs, hg]
  | sleepNoClk _ hg hr | sleepMs _ hg hr => simp [exec, execSleepMs, hg, hr]
  | msRead | usRead | sleepUs | irqOff | irqOn => rfl
  | enableBadPin _ _ hp | setDutyBadPin _ _ hp | disableBadPin _ hp | getDutyBadPin _ hp =>
    exact congrArg Host.Outcome.next (withChannel_none _ s hp)
  | enable _ _ ch hp | disable _ ch hp | getDuty _ ch hp =>
    exact congrArg Host.Outcome.next (withChannel_some _ s hp)
  | setDutyDisabled _ _ ch hp ho | setDuty _ _ ch hp ho =>
    simp [exec, execPwmSetDuty, withChannel_some _ s hp, writeDuty, ho]

/-! ### The microsecond snapshot (R10) -/

/-- The pending overflow counts as one more tick, modulo 2^32, while RAW is below PEND_LOW_LIMIT. -/
theorem snapshotTick_toNat (s : State) :
    (snapshotTick s).toNat =
      (s.tick.toNat + (if s.ovfPend = true ∧ s.raw.toNat < Config.pendLowLimit then 1 else 0)) % 2 ^ 32 := by
  rw [snapshotTick]
  split
  · exact BitVec.toNat_add s.tick 1
  · rw [Nat.add_zero, Nat.mod_eq_of_lt s.tick.isLt]

theorem usNow_toNat (s : State) :
    (usNow s).toNat =
      ((snapshotTick s).toNat * 2 ^ 8 + s.raw.toNat) % 2 ^ 32 * Config.usNum / Config.usDen % 2 ^ 32 :=
  BitVec.toNat_ofNat _ 32

/-! ### The turn of SLEEPER (R57) -/

theorem agentEnabled_sleeper_iff (s : State) :
    agentEnabled .sleeper s = true ↔ s.busy = true ∧ Config.sleepStepUs ≤ (usNow s - s.slpStart).toNat := by
  rw [agentEnabled, sleeperEnabled, sleepElapsed_eq, Bool.and_eq_true, decide_eq_true_iff]

/-- SLEEPER's step in a sleep: BUSY is kept until the new SLP_REM is 0. -/
theorem sleeperStep_of_busy {s : State} (h : s.busy = true) :
    sleeperStep s = { s with
      slpRem := s.slpRem - 1, slpStart := s.slpStart + BitVec.ofNat 32 Config.sleepStepUs,
      busy := if s.slpRem - 1 = 0 then false else true } := by
  simp [sleeperStep, h]

/-! ### The obligations -/

/-- Settles O21: the two faults and the sleep are the three effects of SLEEP_MS. -/
theorem sleepMsBeginsTheSleep : Obligations.SleepMsBeginsTheSleep := by
  intro dur s hd
  refine ⟨packWord_dur 0x4 hd, fun hg => exec_of_effect (.sleepMasked dur hg),
    fun hg hr => exec_of_effect (.sleepNoClk dur hg hr), fun hg hr => ?_⟩
  rw [exec_of_effect (.sleepMs dur hg hr), beginSleep, Bool.if_true_left, Bool.or_false]

/-- Settles O18: CLK_INIT starts a stopped clock and faults on a running one. -/
theorem clkInitStartsTheClock : Obligations.ClkInitStartsTheClock :=
  ⟨packWord_eq_ofNat 0x1 0, fun _ =>
    ⟨fun hr => exec_of_effect (.clkInit hr), fun hr => exec_of_effect (.initTwice hr)⟩⟩

/-- Settles O19: MS_READ has one effect, in every state. -/
theorem msReadCapturesMs : Obligations.MsReadCapturesMs :=
  ⟨packWord_eq_ofNat 0x2 0, fun _ => exec_of_effect .msRead⟩

/-- Settles O20: US_READ has one effect, and the snapshot it writes is R10's number. -/
theorem usReadCapturesTheSnapshot : Obligations.UsReadCapturesTheSnapshot := by
  refine ⟨packWord_eq_ofNat 0x3 0, fun s => ⟨exec_of_effect .usRead, ?_⟩⟩
  rw [usNow_toNat, snapshotTick_toNat]

/-- Settles O22: an enabled SLEEPER takes its step, and one that is not busy or not yet due holds. The premise that SLP_REM
is not 0 is not needed: at 0 the model's difference wraps, as the statement's does (assumption log 9). -/
theorem sleeperConsumesOneStep : Obligations.SleeperConsumesOneStep := by
  intro s hc
  refine ⟨fun hb _ hdue => ?_, fun hidle => ?_⟩
  · have hbusy : (consume s).busy = true := by rw [consume_busy, hb]
    rw [step_of_enabled hc ((agentEnabled_sleeper_iff s).2 ⟨hb, hdue⟩), agentStep, sleeperStep_of_busy hbusy,
      consume_slpRem, consume_slpStart]
  · have hoff : ¬agentEnabled .sleeper s = true := by
      rw [agentEnabled_sleeper_iff]
      rintro ⟨hb, hdue⟩
      rcases hidle with hnb | hnd
      · simp [hb] at hnb
      · omega
    exact step_of_disabled hc (Bool.eq_false_iff.2 hoff)

/-- Settles O23: SLEEP_US has one effect, the state itself. -/
theorem sleepUsChangesNothing : Obligations.SleepUsChangesNothing :=
  fun dur _ hd => ⟨packWord_dur 0x5 hd, exec_of_effect (.sleepUs dur)⟩

end Sys2Proof.Machine
end

section
/-! The PWM commands (R63 to R66) and the turn of a pair's period counter (R67): their words, the one MODE and the one duty
register a command writes, and the count with its load at the wrap. -/

namespace Sys2Proof.Machine

/-! ### The word of format Q (R46) -/

theorem packWord_pinOnly (op : BitVec 4) {pin : Nat} (hp : pin ≤ 255) :
    packWord op (packPin pin 0) = BitVec.ofNat 32 (op.toNat * 2 ^ 28 + pin * 2 ^ 16) := by
  rw [packWord_eq_ofNat, packPin_toNat (Nat.lt_succ_of_le hp), BitVec.ofNat_eq_ofNat, BitVec.toNat_zero, Nat.add_zero]

/-! ### What a command writes -/

theorem oceBit_eq_ite (c : Side) : oceBit c = if c = .A then 0x80 else 0x40 := by
  cases c <;> rfl

/-- R63: PWM_ENABLE writes one MODE register and one duty register. -/
theorem exec_pwmEnable_some {pin : Nat} {ch : Channel} (duty : Nat) (s : State) (h : pwmPinMap pin = some ch) :
    exec (.pwmEnable pin duty) s = .next { s with
      mode := pairSet s.mode ch.pair (modeEnabled (pairGet s.mode ch.pair) ch.side),
      buf := chanSet s.buf ch (clampDuty duty) } :=
  exec_of_effect (.enable pin duty ch h)

/-- R65: PWM_DISABLE writes one MODE register and one duty register. -/
theorem exec_pwmDisable_some {pin : Nat} {ch : Channel} (s : State) (h : pwmPinMap pin = some ch) :
    exec (.pwmDisable pin) s = .next { s with
      mode := pairSet s.mode ch.pair (modeDisabled (pairGet s.mode ch.pair) ch.side),
      buf := chanSet s.buf ch 0 } :=
  exec_of_effect (.disable pin ch h)

/-- R28: the output of a channel whose own OCE bit has been cleared is 0, whatever its counter and active value. -/
theorem out_eq_false_of_modeDisabled {s : State} {ch : Channel} {m : Byte}
    (h : pairGet s.mode ch.pair = modeDisabled m ch.side) : out s ch = false := by
  have hoff : channelOn s ch = false := by rw [channelOn_eq, h, (mode_disabled_bits m ch.side).1]
  rw [out, hoff, Bool.false_and]

/-! ### The turn of PWMTICK (R67) -/

theorem modeCs_toNat (m : Byte) : (modeCs m).toNat = m.toNat % 8 := by
  rw [modeCs, BitVec.extractLsb'_toNat, Nat.shiftRight_zero]

theorem agentEnabled_pwmTick_iff (p : Pair) (s : State) :
    agentEnabled (.pwmTick p) s = true ↔ (pairGet s.mode p).toNat % 8 ≠ 0 := by
  rw [agentEnabled, pwmTickEnabled, bne_iff_ne, ← modeCs_toNat, ne_eq, ne_eq, BitVec.toNat_eq]
  rfl

/-- Below 255 a PWMTICK only counts. -/
theorem pwmTick_of_ne {p : Pair} {s : State} (h : pairGet s.pcnt p ≠ 255) :
    pwmTick p s = { s with pcnt := pairSet s.pcnt p (pairGet s.pcnt p + 1) } :=
  if_neg (by bv_omega)

/-- At 255 the count wraps to 0, and the pair's active values are loaded. -/
theorem pwmTick_of_eq {p : Pair} {s : State} (h : pairGet s.pcnt p = 255) :
    pwmTick p s = { s with pcnt := pairSet s.pcnt p 0, act := (loadActive p s).act } := by
  rw [pwmTick, h]
  rfl

theorem loadActive_consume_act (p : Pair) (s : State) : (loadActive p (consume s)).act = (loadActive p s).act := by
  simp only [loadActive_act, consume_buf, consume_act]

/-- The load takes both channels of the pair from their duty registers and leaves the other channels' active values. -/
theorem chanGet_loadActive (p : Pair) (s : State) (c : Channel) :
    chanGet (loadActive p s).act c = if c.pair = p then chanGet s.buf c else chanGet s.act c := by
  rw [loadActive_act, chanGet_chanSet, chanGet_chanSet]
  obtain ⟨q, side⟩ := c
  by_cases hq : q = p
  · subst hq
    cases side <;> simp
  · simp [hq]

/-! ### The obligations -/

/-- Settles O29: the written MODE holds the shared group and the channel's OCE bit, and the register files keep every other
register. -/
theorem pwmEnableSetsItsOwnChannel : Obligations.PwmEnableSetsItsOwnChannel := by
  refine ⟨fun pin duty hp hd => packWord_pin 0x6 (Nat.lt_succ_of_le hp) hd,
    fun pin duty s hpin => exec_of_effect (.enableBadPin pin duty hpin),
    fun pin duty ch s hpin => ⟨_, _, exec_pwmEnable_some duty s hpin, ?_, fun p hp => pairGet_pairSet_ne _ _ hp, ?_,
      fun c hc => chanGet_chanSet_ne _ _ hc⟩⟩
  · rw [pairGet_pairSet_self, modeEnabled, oceBit_eq_ite, sharedGroup]
  · rw [chanGet_chanSet_self, clampDuty_toNat]

/-- Settles O30: the two faults and the clamped write are the three effects of PWM_SETDUTY. -/
theorem pwmSetDutyWritesItsOwnDuty : Obligations.PwmSetDutyWritesItsOwnDuty := by
  refine ⟨fun pin duty hp hd => packWord_pin 0x7 (Nat.lt_succ_of_le hp) hd,
    fun pin duty s hpin => exec_of_effect (.setDutyBadPin pin duty hpin),
    fun pin duty ch s hpin hoff => exec_of_effect (.setDutyDisabled pin duty ch hpin hoff),
    fun pin duty ch s hpin hon => ⟨_, exec_of_effect (.setDuty pin duty ch hpin hon), ?_,
      fun c hc => chanGet_chanSet_ne _ _ hc⟩⟩
  rw [chanGet_chanSet_self, clampDuty_toNat]

/-- Settles O31: the channel's OCE bit and its duty are cleared, which takes its output down at once. -/
theorem pwmDisableClearsItsOwnChannel : Obligations.PwmDisableClearsItsOwnChannel := by
  refine ⟨fun pin hp => packWord_pinOnly 0x8 hp,
    fun pin s hpin => exec_of_effect (.disableBadPin pin hpin),
    fun pin ch s hpin => ⟨_, _, exec_pwmDisable_some s hpin, ?_, fun p hp => pairGet_pairSet_ne _ _ hp,
      chanGet_chanSet_self _ _ _, fun c hc => chanGet_chanSet_ne _ _ hc,
      out_eq_false_of_modeDisabled (pairGet_pairSet_self _ _ _)⟩⟩
  rw [pairGet_pairSet_self, modeDisabled, oceBit_eq_ite]

/-- Settles O33: a turn with CS = 0 holds; with CS not 0 it counts, and loads the active values only at the wrap. -/
theorem pwmTickCountsThePeriod : Obligations.PwmTickCountsThePeriod := by
  intro s p hc
  have hcount : (pairGet s.mode p).toNat % 8 ≠ 0 → step s = .next (pwmTick p (consume s)) := fun hcs =>
    step_of_enabled hc ((agentEnabled_pwmTick_iff p s).2 hcs)
  refine ⟨fun hcs => ?_, fun hcs hlow => ?_, fun hcs hwrap => ?_⟩
  · exact step_of_disabled hc (Bool.eq_false_iff.2 fun he => (agentEnabled_pwmTick_iff p s).1 he hcs)
  · refine ⟨pairSet s.pcnt p (pairGet s.pcnt p + 1), ?_, pairGet_pairSet_self _ _ _,
      fun q hq => pairGet_pairSet_ne _ _ hq⟩
    have hlow' : pairGet (consume s).pcnt p ≠ 255 := by rwa [consume_pcnt]
    rw [hcount hcs, pwmTick_of_ne hlow', consume_pcnt]
  · refine ⟨pairSet s.pcnt p 0, (loadActive p s).act, ?_, pairGet_pairSet_self _ _ _,
      fun q hq => pairGet_pairSet_ne _ _ hq, chanGet_loadActive p s⟩
    have hwrap' : pairGet (consume s).pcnt p = 255 := by rwa [consume_pcnt]
    rw [hcount hcs, pwmTick_of_eq hwrap', consume_pcnt, loadActive_consume_act]

/-- Settles O32: the value read is the duty register's, its number unchanged by the wider word. -/
theorem pwmGetDutyReturnsTheSetDuty : Obligations.PwmGetDutyReturnsTheSetDuty := by
  refine ⟨fun pin hp => packWord_pinOnly 0x9 hp, fun pin s hpin => exec_of_effect (.getDutyBadPin pin hpin),
    fun pin ch s hpin => ?_⟩
  rw [BitVec.ofNat_toNat]
  exact exec_of_effect (.getDuty pin ch hpin)

end Sys2Proof.Machine
end

section
/-! The interrupt-delivery commands (R71, R72): each has one effect, in every state, and it writes GIE alone. -/

namespace Sys2Proof.Machine

/-- Settles O40: the one effect of IRQ_OFF clears GIE, whatever is pending. -/
theorem irqOffMasksDelivery : Obligations.IrqOffMasksDelivery :=
  ⟨packWord_eq_ofNat 0xA 0, fun _ => exec_of_effect .irqOff⟩

/-- Settles O41: the one effect of IRQ_ON sets GIE, also where it is 1 already. -/
theorem irqOnUnmasksDelivery : Obligations.IrqOnUnmasksDelivery :=
  ⟨packWord_eq_ofNat 0xB 0, fun _ => exec_of_effect .irqOn⟩

end Sys2Proof.Machine
end

section
/-! An issued word check by check (R76), the turns of the clock's events and of the interrupt services (R78 to R86), and
the end of a run (R90): the program and a fault along a run, and the one moment at which it ends. -/

namespace Sys2Proof.Machine

/-! ### An issued word (R76) -/

/-- A legal word that passes the checks is its command. -/
theorem issue_of_decode {w : Word} {i : Instr} {s : State} (hf : s.fault = false) (hb : s.busy = false)
    (hd : decode w = .ok i) : issue w s = exec i s := by
  rw [issue_of_ready w hf hb, execute, hd]

/-- The converse of `effect_of_issue`: the checks exclude each other, so an effect whose condition holds is the one that
`issue` answers. -/
theorem issue_of_effect {w : Word} {s t : State} (h : IssueEffect w s t) : issue w s = .next t := by
  cases h with
  | dropped hf => simp [issue, hf]
  | overrun hf hb => simp [issue, hf, hb]
  | illegal e hf hb hd => rw [issue_of_ready w hf hb, execute, hd]
  | runs i _ hf hb hd he => rw [issue_of_decode hf hb hd, exec_of_effect he]

/-! ### The turns of the clock's events and of the services (R78 to R86) -/

/-- Below 255 a RAWSTEP only counts. -/
theorem rawStep_of_ne {s : State} (h : s.raw ≠ 255) : rawStep s = { s with raw := s.raw + 1 } := by
  have hwrap : s.raw + 1 ≠ 0 := by bv_omega
  rw [rawStep, decide_eq_false hwrap, Bool.or_false]

/-- At 255 the count wraps to 0, and the overflow is pending whether or not one was. -/
theorem rawStep_of_eq {s : State} (h : s.raw = 255) : rawStep s = { s with raw := 0, ovfPend := true } := by
  rw [rawStep, h, show (255 : BitVec 8) + 1 = 0 from rfl, decide_eq_true rfl, Bool.or_true]

/-- The turn of an agent that three bits enable, as GIE, its source enable and its flag do a service (R78): its step when
all are 1, else it holds. -/
theorem step_of_three_enables {s : State} {a : Agent} {x y z : Bool} (hc : chosen s = .agent a)
    (he : agentEnabled a s = (x && y && z)) :
    (x = true → y = true → z = true → step s = agentStep a (consume s)) ∧
    (x = false ∨ y = false ∨ z = false → step s = .next (consume s)) := by
  refine ⟨fun hx hy hz => step_of_enabled hc ?_, fun hoff => step_of_disabled hc ?_⟩
  · rw [he, hx, hy, hz]
    rfl
  · rw [he, Bool.and_assoc, Bool.and_eq_false_iff, Bool.and_eq_false_iff]
    exact hoff

/-! ### What a run keeps (R17, R74) -/

/-- An event does what a step that finds it first in the schedule does. -/
theorem runEvent_eq_step (e : Event) (s : State) : runEvent e s = step { s with sched := e :: s.sched } := rfl

/-- The host's program is fixed (R17). -/
theorem step_prog {s t : State} (h : step s = .next t) : t.prog = s.prog := by
  cases unit_effect h with
  | command w i c k v _ _ _ _ he =>
    obtain ⟨-, -, -, hprog, -, -⟩ := he.host_side
    rw [withHostSide_prog, hprog, withHostSide_prog, consume_prog]
  | _ => simp

/-- A fault is sticky until reset (R74). -/
theorem step_fault {s t : State} (h : step s = .next t) (hf : s.fault = true) (hr : chosen s ≠ .reset) :
    t.fault = true := by
  cases unit_effect h with
  | faults => rfl
  | command w i c k v hf' => exact absurd hf (Bool.eq_false_iff.1 hf')
  | reset hc => exact absurd hc hr
  | _ => simpa using hf

theorem IsRunOf.prog_eq {P : List Word} {e : Nat → Event} {r : Nat → State} (h : IsRunOf P e r) (n : Nat) :
    (r n).prog = P := by
  obtain ⟨hrun, hP⟩ := h
  induction n with
  | zero => exact hP
  | succ n ih => exact (step_prog ((runEvent_eq_step (e n) (r n)).symm.trans (hrun n))).trans ih

/-- With no reset from moment m on, a fault at m is there at every later moment. -/
theorem IsRun.fault_from {e : Nat → Event} {r : Nat → State} (h : IsRun e r) {m : Nat} (hf : (r m).fault = true)
    (hr : ∀ n, m ≤ n → e n ≠ .reset) {n : Nat} (hn : m ≤ n) : (r n).fault = true := by
  induction n, hn using Nat.le_induction with
  | base => exact hf
  | succ n hn ih => exact step_fault ((runEvent_eq_step (e n) (r n)).symm.trans (h n)) ih (hr n hn)

/-! ### The end of a run (R90) -/

section Ends

variable {r : Nat → State}

theorem finished_iff (s : State) :
    finished s = true ↔ s.hpc = s.prog.length ∧ s.busy = false ∧ s.fault = false := by
  simp [finished, and_assoc]

/-- A run ends at one moment only. -/
theorem EndsAt.unique {m n : Nat} (hm : EndsAt r m) (hn : EndsAt r n) : m = n := by
  obtain ⟨hfm, hbm⟩ := hm
  obtain ⟨hfn, hbn⟩ := hn
  rcases Nat.lt_trichotomy m n with h | h | h
  · exact absurd hfm (Bool.eq_false_iff.1 (hbn m h))
  · exact h
  · exact absurd hfn (Bool.eq_false_iff.1 (hbm n h))

/-- A finished moment has a first one at or before it. -/
theorem exists_endsAt_of_finished {n : Nat} (h : finished (r n) = true) : ∃ m, m ≤ n ∧ EndsAt r m :=
  have hex : ∃ k, finished (r k) = true := ⟨n, h⟩
  ⟨Nat.find hex, Nat.find_min' hex h, Nat.find_spec hex, fun _ hk => Bool.eq_false_iff.2 (Nat.find_min hex hk)⟩

/-- The final state is the one at the moment the run ends. -/
theorem EndsAt.isFinalState_iff {n : Nat} (h : EndsAt r n) (t : State) : IsFinalState r t ↔ t = r n := by
  constructor
  · rintro ⟨m, hm, rfl⟩
    rw [hm.unique h]
  · exact fun ht => ⟨n, h, ht⟩

theorem IsFinalState.finished_eq {t : State} (h : IsFinalState r t) : finished t = true := by
  obtain ⟨n, hn, rfl⟩ := h
  exact hn.1

theorem hasNoFinalState_of_never_finished (h : ∀ n, finished (r n) = false) : HasNoFinalState r := by
  rintro t ⟨n, hn, -⟩
  exact absurd hn.1 (Bool.eq_false_iff.1 (h n))

/-- A run that has not ended before moment m, and is busy or faulted at every moment from there on, never ends. -/
theorem hasNoFinalState_of_stuck_from {m : Nat} (hbefore : ∀ k, k < m → finished (r k) = false)
    (hstuck : ∀ n, m ≤ n → (r n).busy = true ∨ (r n).fault = true) : HasNoFinalState r := by
  refine hasNoFinalState_of_never_finished fun n => ?_
  rcases Nat.lt_or_ge n m with hn | hn
  · exact hbefore n hn
  · rcases hstuck n hn with hb | hf
    · simp [finished, hb]
    · simp [finished, hf]

end Ends

/-- The condition of R90 for the program the run is of. -/
theorem IsRunOf.finished_iff {P : List Word} {e : Nat → Event} {r : Nat → State} (h : IsRunOf P e r) (n : Nat) :
    finished (r n) = true ↔ (r n).hpc = P.length ∧ (r n).busy = false ∧ (r n).fault = false := by
  rw [Machine.finished_iff, h.prog_eq n]

theorem IsRunOf.endsAt_iff {P : List Word} {e : Nat → Event} {r : Nat → State} (h : IsRunOf P e r) (n : Nat) :
    EndsAt r n ↔
      ((r n).hpc = P.length ∧ (r n).busy = false ∧ (r n).fault = false) ∧
      ∀ m, m < n → ¬((r m).hpc = P.length ∧ (r m).busy = false ∧ (r m).fault = false) := by
  simp only [EndsAt, ← h.finished_iff, Bool.not_eq_true]

/-! ### The obligations -/

/-- Settles O60: the program is P at every moment, so a finished moment is one that meets R90's condition; a run ends at
the first of these, and a run that is stuck before it never does. -/
theorem runsEndAtTheFirstFinishedState : Obligations.RunsEndAtTheFirstFinishedState := by
  intro P e r h
  refine ⟨h.endsAt_iff, fun n t hn => hn.isFinalState_iff t, fun n hpc hb hf => ?_, fun t ht => ?_, fun hne => ?_,
    fun m hbefore hb => ?_, fun m hbefore hf hr => ?_⟩
  · exact exists_endsAt_of_finished ((h.finished_iff n).2 ⟨hpc, hb, hf⟩)
  · obtain ⟨-, -, hf⟩ := (finished_iff t).1 ht.finished_eq
    exact hf
  · exact hasNoFinalState_of_never_finished fun n => Bool.eq_false_iff.2 fun hfin =>
      hne n ((h.finished_iff n).1 hfin).1
  · exact hasNoFinalState_of_stuck_from hbefore fun n hn => .inl (hb n hn)
  · exact hasNoFinalState_of_stuck_from hbefore fun n hn => .inr (h.1.fault_from hf hr hn)

/-- Settles O11: each check that decides is one effect of the issued word, or of the command it decodes to. -/
theorem issueChecksInOrder : Obligations.IssueChecksInOrder :=
  ⟨fun _ _ hf => issue_of_effect (.dropped hf),
    fun _ _ hf hb => issue_of_effect (.overrun hf hb),
    fun _ e _ hf hb hd => issue_of_effect (.illegal e hf hb hd),
    fun _ _ _ hf hb hd => issue_of_decode hf hb hd,
    fun pin duty _ hp => ⟨exec_of_effect (.enableBadPin pin duty hp), exec_of_effect (.setDutyBadPin pin duty hp),
      exec_of_effect (.disableBadPin pin hp), exec_of_effect (.getDutyBadPin pin hp)⟩,
    fun pin duty ch _ hp hoff => exec_of_effect (.setDutyDisabled pin duty ch hp hoff),
    fun dur _ hg => exec_of_effect (.sleepMasked dur hg),
    fun dur _ hg hr => exec_of_effect (.sleepNoClk dur hg hr),
    fun _ hr => exec_of_effect (.initTwice hr)⟩

/-- Settles O42: RUN is RAWSTEP's enabling, and only the wrap at 255 touches OVF_PEND. -/
theorem rawStepCountsAndOverflows : Obligations.RawStepCountsAndOverflows := by
  intro s hc
  have hcount (hr : s.run = true) : step s = .next (rawStep (consume s)) := step_of_enabled hc hr
  refine ⟨step_of_disabled hc, fun hr hlow => ?_, fun hr hwrap => ?_⟩
  · rw [hcount hr, rawStep_of_ne (by rwa [consume_raw]), consume_raw]
  · rw [hcount hr, rawStep_of_eq (by rwa [consume_raw])]

/-- Settles O43: RUN is CMEVENT's enabling, and its one write is the flag. -/
theorem cmEventSetsItsFlag : Obligations.CmEventSetsItsFlag :=
  fun _ hc => ⟨step_of_disabled hc, step_of_enabled hc⟩

/-- Settles O44: the turn of a service, whose step writes OVF_PEND and TICK. -/
theorem isrOvfServicesTheOverflow : Obligations.IsrOvfServicesTheOverflow := by
  intro s hc
  obtain ⟨hserves, hholds⟩ := step_of_three_enables hc (x := s.gie) (y := s.tieOvf) (z := s.ovfPend) rfl
  refine ⟨fun hg ht hp => ?_, hholds⟩
  rw [hserves hg ht hp, agentStep, isrOvf, consume_tick]

/-- Settles O45: the turn of a service, whose step writes CM_PEND and MS. -/
theorem isrCmServicesTheMatch : Obligations.IsrCmServicesTheMatch := by
  intro s hc
  obtain ⟨hserves, hholds⟩ := step_of_three_enables hc (x := s.gie) (y := s.tieCm) (z := s.cmPend) rfl
  refine ⟨fun hg ht hp => ?_, hholds⟩
  rw [hserves hg ht hp, agentStep, isrCm, consume_ms]

end Sys2Proof.Machine
end

section
/-! The reset event (70_reset_and_hazards.md R96): it is always possible, and it leaves each element at its value of R15. -/

namespace Sys2Proof.Machine

/-- R96: reset needs no enabling; it acts in every state, faulted or busy. -/
theorem step_of_reset {s : State} (hc : chosen s = .reset) : step s = .next (resetUnit (consume s)) := by
  rw [step, hc, runEvent]

/-- Settles O53: the step taken is `resetUnit`, whose elements are those of `State.reset`, 0 for each; the model's own
fields are carried over. -/
theorem resetZeroesEveryElement : Obligations.ResetZeroesEveryElement :=
  fun s hc => ⟨resetUnit (consume s), step_of_reset hc, rfl⟩

end Sys2Proof.Machine
end

section
/-! Decoding and encoding undo each other (R46 to R50), and the order of the bytes (R36): the operand fields of a packed
word, the word rebuilt from the fields of its row, and a word rebuilt from its bytes. -/

namespace Sys2Proof

/-! ### Packed words, field by field (R46) -/

/-- Format T: bits [23:0] are the duration. -/
theorem packWord_durField (op : BitVec 4) (hi : BitVec 8) (lo : BitVec 16) :
    packWord op (BitVec.ofNat 24 (hi.toNat * 2 ^ 16 + lo.toNat)) = fieldsWord op 0 hi lo := by
  have hhi := hi.isLt
  have hlo := lo.isLt
  apply BitVec.eq_of_toNat_eq
  rw [packWord_dur op (by omega), fieldsWord_toNat, BitVec.toNat_ofNat, Nat.mod_eq_of_lt (by omega),
    BitVec.ofNat_eq_ofNat, BitVec.toNat_zero]
  omega

/-- Formats P and Q: bits [23:16] are the pin, the low half is the duty or 0. -/
theorem packWord_packPin (op : BitVec 4) (pin : Nat) (lo : BitVec 16) :
    packWord op (packPin pin lo) = fieldsWord op 0 (BitVec.ofNat 8 pin) lo := by
  obtain ⟨hhi, hlo⟩ := packPin_fields pin lo
  rw [packWord_eq, hhi, hlo]

/-- Format N: bits [23:0] are 0. -/
theorem packWord_zero (op : BitVec 4) : packWord op 0 = fieldsWord op 0 0 0 := packWord_eq op 0

/-! ### Decoding an encoded command -/

/-- A duration inside its field is read back from format T. -/
theorem decode_packWord_dur {dur : Nat} (h : durFits dur = true) :
    decode (packWord 0x4 (BitVec.ofNat 24 dur)) = .ok (.sleepMs dur) ∧
    decode (packWord 0x5 (BitVec.ofNat 24 dur)) = .ok (.sleepUs dur) := by
  have hlt : dur < 16777216 := of_decide_eq_true h
  have hsplit : dur = (BitVec.ofNat 8 (dur / 2 ^ 16)).toNat * 2 ^ 16 + (BitVec.ofNat 16 dur).toNat := by
    rw [BitVec.toNat_ofNat, BitVec.toNat_ofNat]
    omega
  rw [hsplit, packWord_durField, packWord_durField, decode_fieldsWord, decode_fieldsWord]
  simp

/-- A pin inside its field is read back from formats P and Q, with any low half of format P. -/
theorem decode_packWord_pin {pin : Nat} (h : pinFits pin = true) (lo : BitVec 16) :
    decode (packWord 0x6 (packPin pin lo)) = .ok (.pwmEnable pin lo.toNat) ∧
    decode (packWord 0x7 (packPin pin lo)) = .ok (.pwmSetDuty pin lo.toNat) ∧
    decode (packWord 0x8 (packPin pin 0)) = .ok (.pwmDisable pin) ∧
    decode (packWord 0x9 (packPin pin 0)) = .ok (.pwmGetDuty pin) := by
  have hlt : pin < 256 := of_decide_eq_true h
  have hpin : (BitVec.ofNat 8 pin).toNat = pin := by rw [BitVec.toNat_ofNat, Nat.mod_eq_of_lt hlt]
  simp only [packWord_packPin, decode_fieldsWord, hpin]
  simp

theorem toNat_ofNat_of_dutyFits {duty : Nat} (h : dutyFits duty = true) : (BitVec.ofNat 16 duty).toNat = duty := by
  rw [BitVec.toNat_ofNat, Nat.mod_eq_of_lt (of_decide_eq_true h)]

/-- Settles O4: format N by its one word, formats T, P and Q by reading back the operands that fit. -/
theorem decodeOfEncodeIsTheCommand : Obligations.DecodeOfEncodeIsTheCommand := by
  intro i hwf
  cases i with
  | clkInit | msRead | usRead | irqOff | irqOn => rfl
  | sleepMs dur => exact (decode_packWord_dur hwf).1
  | sleepUs dur => exact (decode_packWord_dur hwf).2
  | pwmEnable pin duty =>
    obtain ⟨hp, hd⟩ := Bool.and_eq_true_iff.1 hwf
    obtain ⟨henable, -⟩ := decode_packWord_pin hp (BitVec.ofNat 16 duty)
    rw [encode, henable, toNat_ofNat_of_dutyFits hd]
  | pwmSetDuty pin duty =>
    obtain ⟨hp, hd⟩ := Bool.and_eq_true_iff.1 hwf
    obtain ⟨-, hset, -⟩ := decode_packWord_pin hp (BitVec.ofNat 16 duty)
    rw [encode, hset, toNat_ofNat_of_dutyFits hd]
  | pwmDisable pin =>
    obtain ⟨-, -, hdisable, -⟩ := decode_packWord_pin hwf 0
    exact hdisable
  | pwmGetDuty pin =>
    obtain ⟨-, -, -, hget⟩ := decode_packWord_pin hwf 0
    exact hget

/-! ### Encoding a decoded word -/

/-- A word that decodes selects a row of the map, and its command is read by that row. -/
theorem row_of_decode {w : Word} {i : Instr} (h : decode w = .ok i) :
    ∃ r ∈ opcodeMap, w &&& r.mask = r.pattern ∧ i = readOperands r.op w := by
  rw [decode_eq_elim] at h
  cases hf : opcodeMap.find? fun r => r.selects w with
  | none => simp [hf] at h
  | some r =>
    have hsel : w &&& r.mask = r.pattern := by simpa [OpcodeRow.selects] using List.find?_some hf
    rw [hf, Option.elim_some, Except.ok.injEq] at h
    exact ⟨r, List.mem_of_find?_eq_some hf, hsel, h.symm⟩

/-- The operand fields hold no more than their bits (R47). -/
theorem readOperands_wf (op : Opcode) (w : Word) : (readOperands op w).WellFormed := by
  have hdur : durFits (durField w) = true := decide_eq_true (BitVec.isLt _)
  have hpin : pinFits (pinField w) = true := decide_eq_true (BitVec.isLt _)
  have hduty : dutyFits (dutyField w) = true := decide_eq_true (BitVec.isLt _)
  cases op with
  | clkInit | msRead | usRead | irqOff | irqOn => rfl
  | sleepMs | sleepUs => exact hdur
  | pwmEnable | pwmSetDuty => exact Bool.and_eq_true_iff.2 ⟨hpin, hduty⟩
  | pwmDisable | pwmGetDuty => exact hpin

/-- The word of a row's command, rebuilt from the fields the row's mask leaves free; the others are the pattern's. -/
theorem encode_readOperands {w : Word} {r : OpcodeRow} (hr : r ∈ opcodeMap) (h : w &&& r.mask = r.pattern) :
    encode (readOperands r.op w) = w := by
  revert r
  rw [← fieldsWord_fields w, opcodeMap_fields]
  generalize opField w = op, rsvField w = rsv, w.extractLsb' 16 8 = hi, w.extractLsb' 0 16 = lo
  simp only [List.forall_mem_cons, List.not_mem_nil, false_imp_iff, implies_true, and_true, fieldsWord_and,
    fieldsWord_inj, and_f, and_ff, and_ffff, and_zero8, and_zero16, true_and, readOperands, durField_fieldsWord,
    pinField_fieldsWord, dutyField_fieldsWord, encode, packWord_zero, packWord_durField, packWord_packPin,
    BitVec.ofNat_toNat, BitVec.setWidth_eq]
  refine ⟨?_, ?_, ?_, ?_, ?_, ?_, ?_, ?_, ?_, ?_, ?_⟩
  all_goals
    intro hsel
    simp only [hsel, and_self]

/-- Settles O5: the word is rebuilt by the row it selects. -/
theorem encodeOfDecodeIsTheWord : Obligations.EncodeOfDecodeIsTheWord := by
  intro w i h
  obtain ⟨r, hr, hsel, rfl⟩ := row_of_decode h
  exact ⟨readOperands_wf r.op w, encode_readOperands hr hsel⟩

/-- Settles O1: each word is evaluated by the decoder. -/
theorem vectorWordsDecodeAsTabled : Obligations.VectorWordsDecodeAsTabled :=
  ⟨rfl, rfl, rfl, rfl, rfl, rfl, rfl, rfl, rfl, rfl, rfl, ⟨_, rfl⟩, ⟨_, rfl⟩, ⟨_, rfl⟩, ⟨_, rfl⟩, ⟨_, rfl⟩⟩

end Sys2Proof

namespace Sys2Proof.Machine

/-! ### The order of the bytes (R36) -/

/-- The four bytes of a word make the word. -/
theorem wordOfBytes_wordByte (w : Word) :
    wordOfBytes (wordByte w 0) (wordByte w 1) (wordByte w 2) (wordByte w 3) = w := by
  unfold wordOfBytes wordByte
  rw [BitVec.extractLsb'_append_extractLsb'_eq_extractLsb' (by rfl),
    BitVec.extractLsb'_append_extractLsb'_eq_extractLsb' (by rfl),
    BitVec.extractLsb'_append_extractLsb'_eq_extractLsb' (by rfl)]
  simp

/-- Settles O6: the bytes are those of `wordByte`, and they make the word again. -/
theorem bytesAreLittleEndian : Obligations.BytesAreLittleEndian := by
  refine ⟨fun w rest => ?_, wordOfBytes_wordByte, fun s k hk => ?_⟩
  · have hbytes : wordOfBytes (BitVec.ofNat 8 w.toNat) (BitVec.ofNat 8 (w.toNat / 2 ^ 8))
        (BitVec.ofNat 8 (w.toNat / 2 ^ 16)) (BitVec.ofNat 8 (w.toNat / 2 ^ 24)) = w := by
      simpa [wordByte_eq_ofNat] using wordOfBytes_wordByte w
    rw [decodeBytes, hbytes]
    cases decode w <;> rfl
  · rw [← wordByte_eq_ofNat]
    interval_cases k <;> rfl

end Sys2Proof.Machine
end

section
/-! The events of a step (R33 to R40, R88, R89): where a bus access stops, what a byte write reaches, what HOST's turn does,
and which event is next. -/

namespace Sys2Proof.Machine

/-! ### The window (R30, R33, R34, R37) -/

/-- R30: the offsets outside the window. -/
theorem windowOffset_eq_none {off : Int} (h : off < 0 ∨ 32 ≤ off) : windowOffset off = none :=
  if_neg (by omega)

theorem offsetOfAddress_base_add (k : Nat) : offsetOfAddress (Config.base + k) = k := by
  rw [offsetOfAddress]
  omega

/-- R34: a write inside the window always answers a next state; only CMD3 does more than write a register. -/
theorem writeWindow_next (k : Nat) (v : Byte) (s : State) : ∃ t, writeWindow k v s = .next t := by
  match k with
  | 0 | 1 | 2 | _ + 4 => exact ⟨_, rfl⟩
  | 3 =>
    obtain ⟨t, ht, -⟩ := issue_effect (latchedWord { s.cmdl with l3 := v }) (setLatches { s.cmdl with l3 := v } s)
    exact ⟨t, ht⟩

theorem writeWindow_of_le {k : Nat} (hk : 4 ≤ k) (v : Byte) (s : State) : writeWindow k v s = .next s := by
  obtain ⟨n, rfl⟩ := Nat.exists_eq_add_of_le' hk
  rfl

theorem memWrite_one {k : Nat} (hk : k < 32) (v : Byte) (s : State) : memWrite k [v] s = writeWindow k v s := by
  simp only [memWrite, windowOffset_ofNat hk]

theorem memWrite_outside {off : Int} (h : off < 0 ∨ 32 ≤ off) (v : Byte) (s : State) :
    memWrite off [v] s = .fault .outsideWindow := by
  simp only [memWrite, windowOffset_eq_none h]

theorem memWrite_wide (off : Int) {bytes : List Byte} (h : bytes.length ≠ 1) (s : State) :
    memWrite off bytes s = .refused .accessWidth := by
  match bytes, h with
  | [], _ | _ :: _ :: _, _ => rfl

theorem memRead_outside {off : Int} (h : off < 0 ∨ 32 ≤ off) (s : State) :
    memRead off 1 s = .fault .outsideWindow := by
  simp only [memRead, windowOffset_eq_none h, ne_eq, not_true_eq_false, if_false]

theorem memRead_wide (off : Int) {width : Nat} (h : width ≠ 1) (s : State) :
    memRead off width s = .refused .accessWidth :=
  if_pos h

/-- An access that is one byte wide and inside the window answers a next state. -/
theorem memRead_inside {off : Int} (h0 : 0 ≤ off) (h1 : off < 32) (s : State) : ∃ t, memRead off 1 s = .next t := by
  obtain ⟨k, rfl⟩ := Int.eq_ofNat_of_zero_le h0
  exact ⟨_, memRead_one (by omega) s⟩

theorem memWrite_inside {off : Int} (h0 : 0 ≤ off) (h1 : off < 32) {bytes : List Byte} (hb : bytes.length = 1)
    (s : State) : ∃ t, memWrite off bytes s = .next t := by
  obtain ⟨k, rfl⟩ := Int.eq_ofNat_of_zero_le h0
  obtain ⟨v, rfl⟩ := List.length_eq_one_iff.1 hb
  rw [memWrite_one (by omega)]
  exact writeWindow_next k v s

/-- A write inside the window, as the step that has it next. -/
theorem step_of_busWrite {s : State} {k : Nat} {v : Byte} (hc : chosen s = .busWrite k [v]) (hk : k < 32) :
    step s = writeWindow k v (consume s) := by
  rw [step, hc, runEvent, memWrite_one hk]

/-! ### The obligations -/

/-- Settles O12: each answer is one of the effects listed for it. -/
theorem everyIssuedWordCompletes : Obligations.EveryIssuedWordCompletes := by
  refine ⟨fun w s => ?_, fun i s => ?_⟩
  · obtain ⟨t, ht, -⟩ := issue_effect w s
    exact ⟨t, ht⟩
  · obtain ⟨t, ht, -⟩ := exec_effect i s
    exact ⟨t, ht⟩

/-- Settles O13: turns, resets and accesses of one byte inside the window answer a next state, so a stop is none of them. -/
theorem stepStopsExactlyAtForeignBusAccesses : Obligations.StepStopsExactlyAtForeignBusAccesses := by
  refine ⟨fun s off width hc hw => ?_, fun s off bytes hc hb => ?_, fun s off hc ho => ?_, fun s off v hc ho => ?_,
    fun s hstop => ?_⟩
  · rw [step, hc, runEvent, memRead_wide off hw]
  · rw [step, hc, runEvent, memWrite_wide off hb]
  · rw [step, hc, runEvent, memRead_outside ho]
  · rw [step, hc, runEvent, memWrite_outside ho]
  · simp only [step] at hstop
    cases hc : chosen s with
    | agent a =>
      obtain ⟨t, ht⟩ := agentTurn_next a (consume s)
      exact absurd (by rw [hc, runEvent, ht]) (hstop t)
    | reset => exact absurd (by rw [hc, runEvent]) (hstop (resetUnit (consume s)))
    | busRead off width =>
      refine .inl ⟨off, width, rfl, ?_⟩
      by_contra hin
      obtain rfl : width = 1 := by omega
      obtain ⟨t, ht⟩ := memRead_inside (by omega : 0 ≤ off) (by omega) (consume s)
      exact hstop t (by rw [hc, runEvent, ht])
    | busWrite off bytes =>
      refine .inr ⟨off, bytes, rfl, ?_⟩
      by_contra hin
      obtain ⟨t, ht⟩ := memWrite_inside (by omega : 0 ≤ off) (by omega) (bytes := bytes) (by omega) (consume s)
      exact hstop t (by rw [hc, runEvent, ht])

/-- Settles O14: the offset of BASE + k is k, and it is read off for k below 32 only. -/
theorem windowStandsAtBase : Obligations.WindowStandsAtBase := by
  refine ⟨fun k hk => ?_, fun addr ho => windowOffset_eq_none ?_⟩
  · rw [offsetOfAddress_base_add, windowOffset_ofNat hk]
  · rw [offsetOfAddress]
    omega

/-- Settles O16: the write at its offset of the window. -/
theorem busWriteReachesOnlyTheLatches : Obligations.BusWriteReachesOnlyTheLatches := by
  intro s v
  refine ⟨fun hc => ?_, fun hc => ?_, fun hc => ?_, fun hc => ?_, fun off h0 h1 hc => ?_⟩
  · rw [step_of_busWrite (k := 0) hc (by omega), writeWindow, setLatches, consume_cmdl]
  · rw [step_of_busWrite (k := 1) hc (by omega), writeWindow, setLatches, consume_cmdl]
  · rw [step_of_busWrite (k := 2) hc (by omega), writeWindow, setLatches, consume_cmdl]
  · rw [step_of_busWrite (k := 3) hc (by omega), writeWindow, setLatches, consume_cmdl, latchedWord, wordOfBytes]
  · obtain ⟨k, rfl⟩ := Int.eq_ofNat_of_zero_le (by omega : 0 ≤ off)
    rw [step_of_busWrite hc (by omega), writeWindow_of_le (by omega)]

/-- Settles O17: none of the seven is a byte of the window, nor a bit of STATUS or CLKCTL. -/
theorem hiddenElementsReachNoBusByte : Obligations.HiddenElementsReachNoBusByte := by
  intro s tick ms slpStart slpRem act cmdl hpc k
  unfold windowByte
  split <;> rfl

/-- Settles O9: the first event of the list, or the agent that the free choice names. -/
theorem stepIsTheChosenEvent : Obligations.StepIsTheChosenEvent := by
  refine ⟨fun s e rest hs => ?_, fun s hs => ?_⟩
  · have hc : chosen s = e := by rw [chosen, hs]
    have hu : consume s = { s with sched := rest } := by rw [consume, hs]
    exact ⟨hc, hu, by rw [step, hc, hu]⟩
  · have hc : chosen s = .agent (Config.schedule s.picks) := by rw [chosen, hs]
    have hu : consume s = { s with picks := s.picks + 1 } := by rw [consume, hs]
    exact ⟨hc, hu, by rw [step, hc, hu]⟩

/-- R88: HOST's turn with a word to issue and nothing to hold it. -/
theorem step_of_host {s : State} {w : Word} (hc : chosen s = .agent .host) (hw : s.prog[s.hpc]? = some w)
    (hb : s.busy = false) (hf : s.fault = false) :
    step s = onNext (execute w (setLatches (latchesOf w) (consume s))) bumpHpc := by
  have hw' : (consume s).prog[(consume s).hpc]? = some w := by rw [consume_prog, consume_hpc, hw]
  rw [step_of_enabled hc (hostEnabled_of hw hb hf), agentStep, hostStep_of hw',
    issue_of_ready w (by rw [setLatches_fault, consume_fault, hf]) (by rw [setLatches_busy, consume_busy, hb])]

/-- Settles O10: HOST's turn by what its word decodes to, and the three grounds of holding. -/
theorem hostStepRunsTheDecodedCommand : Obligations.HostStepRunsTheDecodedCommand := by
  refine ⟨fun s w i hc hw hb hf hd => ?_, fun s w e hc hw hb hf hd => ?_, fun s hc hhold => ?_⟩
  · rw [step_of_host hc hw hb hf, execute, hd]
    rfl
  · rw [step_of_host hc hw hb hf, execute, hd, ← consume_hpc s]
    rfl
  · refine step_of_disabled hc ?_
    rcases hhold with hend | hb | hf
    · simp [agentEnabled, hostEnabled, Nat.not_lt.2 hend]
    · simp [agentEnabled, hostEnabled, hb]
    · simp [agentEnabled, hostEnabled, hf]

end Sys2Proof.Machine
end

section
/-! Which step writes which element: the PWM registers (R24, R25, R70), the clock (R18 to R22, R77), RESULT (R23), the sleep
(R56, R99), the fault latch (R74) and the end of a program (R90). -/

namespace Sys2Proof.Machine

/-! ### What a command leaves alone -/

/-- No command touches the running waveform (R25). -/
theorem CommandEffect.waveform {s t : State} {i : Instr} (h : CommandEffect s i t) :
    t.pcnt = s.pcnt ∧ t.act = s.act := by
  cases h <;> exact ⟨rfl, rfl⟩

/-- No command but CLK_INIT touches a counter, a pending flag, RUN or a source enable (R18 to R22). -/
theorem CommandEffect.clock_kept {s t : State} {i : Instr} (h : CommandEffect s i t) (hi : i ≠ .clkInit) :
    (t.tick = s.tick ∧ t.ms = s.ms ∧ t.raw = s.raw) ∧ (t.ovfPend = s.ovfPend ∧ t.cmPend = s.cmPend) ∧
      t.run = s.run ∧ t.tieOvf = s.tieOvf ∧ t.tieCm = s.tieCm := by
  cases h with
  | initTwice | clkInit => exact absurd rfl hi
  | _ => exact ⟨⟨rfl, rfl, rfl⟩, ⟨rfl, rfl⟩, rfl, rfl, rfl⟩

/-- GIE is written by CLK_INIT, IRQ_OFF and IRQ_ON (R22). -/
theorem CommandEffect.gie_eq {s t : State} {i : Instr} (h : CommandEffect s i t) :
    t.gie = s.gie ∨ (t.gie = true ∧ (i = .irqOn ∨ i = .clkInit)) ∨ (t.gie = false ∧ i = .irqOff) := by
  cases h <;> simp

/-- RESULT is written by the reading commands (R38). -/
theorem CommandEffect.result_eq {s t : State} {i : Instr} (h : CommandEffect s i t) :
    t.result = s.result ∨ i = .msRead ∨ i = .usRead ∨ ∃ pin, i = .pwmGetDuty pin := by
  cases h <;> simp

/-! ### The PWM registers (R24, R25, R63 to R65) -/

/-- What a step other than the reset does to MODE and BUF: nothing, or one of the three writes of a command it executes. -/
inductive PwmWrite (s t : State) : Prop where
  | kept : t.mode = s.mode → t.buf = s.buf → PwmWrite s t
  | enable (pin duty : Nat) (ch : Channel) :
      executed s = some (.pwmEnable pin duty) →
      t.mode = pairSet s.mode ch.pair (modeEnabled (pairGet s.mode ch.pair) ch.side) →
      t.buf = chanSet s.buf ch (clampDuty duty) → PwmWrite s t
  | setDuty (pin duty : Nat) (ch : Channel) :
      executed s = some (.pwmSetDuty pin duty) → channelOn s ch = true →
      t.mode = s.mode → t.buf = chanSet s.buf ch (clampDuty duty) → PwmWrite s t
  | disable (pin : Nat) (ch : Channel) :
      executed s = some (.pwmDisable pin) →
      t.mode = pairSet s.mode ch.pair (modeDisabled (pairGet s.mode ch.pair) ch.side) →
      t.buf = chanSet s.buf ch 0 → PwmWrite s t

@[simp] theorem channelOn_withHostSide (c : CmdLatches) (h : Nat) (r : Option Byte) (s : State) (ch : Channel) :
    channelOn (withHostSide c h r s) ch = channelOn s ch := rfl

theorem pwmWrite_of_step {s t : State} (h : step s = .next t) (hr : chosen s ≠ .reset) : PwmWrite s t := by
  cases unit_effect h with
  | command w i c k v _ _ _ he hc =>
    cases hc with
    | enable pin duty ch => exact .enable pin duty ch he (by simp) (by simp)
    | setDuty pin duty ch _ hon => exact .setDuty pin duty ch he (by simpa using hon) (by simp) (by simp)
    | disable pin ch => exact .disable pin ch he (by simp) (by simp)
    | _ => exact .kept (by simp) (by simp)
  | reset hc => exact absurd hc hr
  | _ => exact .kept (by simp) (by simp)

/-- Settles O37: the three writes of `PwmWrite` are those of the three commands. -/
theorem onlyPwmCommandsChangeModeAndDuty : Obligations.OnlyPwmCommandsChangeModeAndDuty := by
  intro s t h hchange
  by_cases hr : chosen s = .reset
  · exact .inl hr
  · cases pwmWrite_of_step h hr with
    | kept hm hb => simp [hm, hb] at hchange
    | enable pin duty _ he => exact .inr (.inl ⟨pin, duty, he⟩)
    | setDuty pin duty _ he => exact .inr (.inr (.inl ⟨pin, duty, he⟩))
    | disable pin _ he => exact .inr (.inr (.inr ⟨pin, he⟩))

/-- The MODE register of a pair after such a step: kept, or written by PWM_ENABLE or PWM_DISABLE of one of its sides. -/
theorem PwmWrite.mode_cases {s t : State} (h : PwmWrite s t) (p : Pair) :
    pairGet t.mode p = pairGet s.mode p ∨ ∃ c, pairGet t.mode p = modeEnabled (pairGet s.mode p) c ∨
      pairGet t.mode p = modeDisabled (pairGet s.mode p) c := by
  cases h with
  | kept hm | setDuty _ _ _ _ _ hm => exact .inl (by rw [hm])
  | enable pin duty ch _ hm =>
    rw [hm, pairGet_pairSet]
    split
    · next hp => exact .inr ⟨ch.side, .inl (by rw [hp])⟩
    · exact .inl rfl
  | disable pin ch _ hm =>
    rw [hm, pairGet_pairSet]
    split
    · next hp => exact .inr ⟨ch.side, .inr (by rw [hp])⟩
    · exact .inl rfl

/-- Settles O39: PWM_ENABLE writes the shared group as it is, and PWM_DISABLE leaves it. -/
theorem sharedGroupStaysSet : Obligations.SharedGroupStaysSet := by
  intro s t p h hr hwgm hcs
  rcases (pwmWrite_of_step h hr).mode_cases p with hm | ⟨c, hm | hm⟩
  · rw [hm]
    exact ⟨hwgm, hcs⟩
  · obtain ⟨-, -, -, -, hbits⟩ := mode_enabled_bits (pairGet s.mode p) c
    rwa [hm]
  · obtain ⟨-, -, -, -, hw, hc⟩ := mode_disabled_bits (pairGet s.mode p) c
    rw [hm, hw, hc]
    exact ⟨hwgm, hcs⟩

/-- A step other than the reset leaves PCNT and ACT alone, or is a PWMTICK. -/
theorem step_waveform {s t : State} (h : step s = .next t) (hr : chosen s ≠ .reset) :
    (t.pcnt = s.pcnt ∧ t.act = s.act) ∨ ∃ p, takes (.pwmTick p) s = true ∧ t = pwmTick p (consume s) := by
  cases unit_effect h with
  | command w i c k v _ _ _ _ hc =>
    obtain ⟨hpcnt, hact⟩ := hc.waveform
    simp [hpcnt, hact]
  | pwmTick p ht => exact .inr ⟨p, ht, rfl⟩
  | reset hc => exact absurd hc hr
  | _ => simp

/-- Settles O38: a PWMTICK counts its own pair, and loads that pair's active values at the wrap alone. -/
theorem onlyPwmTicksChangeTheWaveform : Obligations.OnlyPwmTicksChangeTheWaveform := by
  intro s t h hr
  rcases step_waveform h hr with ⟨hpcnt, hact⟩ | ⟨q, ht, rfl⟩
  · simp [hpcnt, hact]
  · refine ⟨fun p hp => ?_, fun c hc => ?_⟩
    · rw [pwmTick_pcnt, consume_pcnt, pairGet_pairSet] at hp
      split at hp
      · next hpq => rwa [hpq]
      · exact absurd rfl hp
    · by_cases hwrap : pairGet s.pcnt q = 255
      · have hact : (pwmTick q (consume s)).act = (loadActive q s).act := by
          rw [pwmTick_of_eq (by rwa [consume_pcnt]), loadActive_consume_act]
        rw [hact, chanGet_loadActive] at hc ⊢
        split at hc
        · next hcq =>
          subst hcq
          exact ⟨ht, hwrap, if_pos rfl⟩
        · exact absurd rfl hc
      · rw [pwmTick_of_ne (by rwa [consume_pcnt]), consume_act] at hc
        exact absurd rfl hc

/-! ### The clock (R18 to R22, R77) -/

/-- Settles O47: a flag rises in its event and falls in its service; CLK_INIT alone among the commands writes it. -/
theorem pendingFlagsHaveTheirOwnWriters : Obligations.PendingFlagsHaveTheirOwnWriters := by
  intro s t h hr
  cases unit_effect h with
  | command w i c k v _ _ _ he hc =>
    by_cases hi : i = .clkInit
    · subst hi
      cases hc <;> simp +contextual [he]
    · obtain ⟨-, ⟨hovf, hcm⟩, -⟩ := hc.clock_kept hi
      simp +contextual [hovf, hcm]
  | rawStep ht =>
    have hwrap : s.raw + 1 = 0 → s.raw = 255 := by bv_omega
    simp +contextual [rawStep, ht, hwrap]
  | cmEvent ht => simp +contextual [ht]
  | isrOvf ht => simp +contextual [ht]
  | isrCm ht => simp +contextual [ht]
  | reset hc => exact absurd hc hr
  | _ => simp +contextual

/-- Settles O48: CLK_INIT sets all four, and GIE has two more writers, IRQ_ON and IRQ_OFF. -/
theorem enablesHaveTheirOwnWriters : Obligations.EnablesHaveTheirOwnWriters := by
  intro s t h hr
  cases unit_effect h with
  | command w i c k v _ _ _ he hc =>
    by_cases hi : i = .clkInit
    · subst hi
      cases hc <;> simp +contextual [he]
    · obtain ⟨-, -, hrun, hovf, hcm⟩ := hc.clock_kept hi
      rcases hc.gie_eq with hg | ⟨hg, rfl | rfl⟩ | ⟨hg, rfl⟩ <;> simp +contextual [hrun, hovf, hcm, hg, he]
  | reset hc => exact absurd hc hr
  | _ => simp +contextual

/-- Settles O49: each counter is counted by one agent, and CLK_INIT zeroes all three. -/
theorem countersHaveTheirOwnWriters : Obligations.CountersHaveTheirOwnWriters := by
  intro s t h
  cases unit_effect h with
  | command w i c k v _ _ _ he hc =>
    by_cases hi : i = .clkInit
    · subst hi
      cases hc <;> simp [he]
    · obtain ⟨⟨htick, hms, hraw⟩, -⟩ := hc.clock_kept hi
      simp [htick, hms, hraw]
  | rawStep ht => simp [ht]
  | isrOvf ht => simp [ht]
  | isrCm ht => simp [ht]
  | reset hc => simp [hc]
  | _ => simp

/-- Settles O50: no agent's own step writes RESULT. -/
theorem onlyReadingCommandsChangeResult : Obligations.OnlyReadingCommandsChangeResult := by
  intro s t h hchange
  cases unit_effect h with
  | command w i c k v _ _ _ he hc =>
    rcases hc.result_eq with hres | rfl | rfl | ⟨pin, rfl⟩
    · simp [hres] at hchange
    · exact .inr (.inl he)
    · exact .inr (.inr (.inl he))
    · exact .inr (.inr (.inr ⟨pin, he⟩))
  | reset hc => exact .inl hc
  | _ => simp at hchange

/-! ### A sleep in progress and a latched fault (R56, R74, R99) -/

/-- Settles O51: while BUSY = 1 a word is dropped or an overrun, so only SLEEPER reaches the sleep. -/
theorem sleepRunsToCompletion : Obligations.SleepRunsToCompletion := by
  intro s t h hb hr
  refine ⟨executed_eq_none_of_stopped (.inr hb), ?_⟩
  cases unit_effect h with
  | command w i c k v _ hb' => exact absurd hb (Bool.eq_false_iff.1 hb')
  | sleeper ht =>
    have hlast : s.slpRem - 1 = 0 → s.slpRem = 1 := by bv_omega
    simp +contextual [ht, hb, hlast]
  | reset hc => exact absurd hc hr
  | _ => simp [hb]

/-- A command keeps FAULT = 0, or writes FAULT and FCODE alone (R74). -/
theorem CommandEffect.fault_eq {s t : State} {i : Instr} (h : CommandEffect s i t) :
    (t.fault = s.fault ∧ t.fcode = s.fcode) ∨ ∃ code, t = raiseFault code s := by
  cases h with
  | initTwice | sleepMasked | sleepNoClk | enableBadPin | setDutyBadPin | setDutyDisabled | disableBadPin
  | getDutyBadPin => exact .inr ⟨_, rfl⟩
  | _ => exact .inl ⟨rfl, rfl⟩

/-- The code of a latched fault stays until reset (R74). -/
theorem step_fcode {s t : State} (h : step s = .next t) (hf : s.fault = true) (hr : chosen s ≠ .reset) :
    t.fcode = s.fcode := by
  cases unit_effect h with
  | faults code c k hf' | command w i c k v hf' => exact absurd hf (Bool.eq_false_iff.1 hf')
  | reset hc => exact absurd hc hr
  | _ => simp

/-- Settles O52: a command that faults is `raiseFault` and nothing else, and FAULT guards every later word. -/
theorem faultsArePreciseAndSticky : Obligations.FaultsArePreciseAndSticky := by
  refine ⟨fun i s t h hs ht => ?_, fun s t h hf hr => ?_, fun a s code ha => ?_⟩
  · rcases (effect_of_exec h).fault_eq with ⟨hkept, -⟩ | ⟨code, rfl⟩
    · simp [hkept, hs] at ht
    · rfl
  · exact ⟨step_fault h hf hr, step_fcode h hf hr, executed_eq_none_of_stopped (.inl hf)⟩
  · cases a with
    | host => exact absurd rfl ha
    | _ => rfl

/-! ### A finished program (R90) -/

/-- Settles O58: HOST has no word left, SLEEPER no sleep, and no other agent writes hpc, BUSY or FAULT. -/
theorem finishedStaysFinished : Obligations.FinishedStaysFinished := by
  intro s t a hfin hca h
  obtain ⟨hpc, hb, hf⟩ := (finished_iff s).1 hfin
  rw [finished_iff]
  cases step_effect h with
  | host w v _ he => simp [hostEnabled, hpc] at he
  | busRead _ _ hc | latch _ _ _ hc | ignored _ _ hc | cmd3 _ _ hc | reset hc => simp [hca] at hc
  | _ => simp [hpc, hb, hf]

end Sys2Proof.Machine
end

section
/-! What a PWM command means for channels (R26, R68, R69): the pin map as its table, one channel's registers against the
rest, and the channel state machine. -/

namespace Sys2Proof.Machine

/-! ### The pin map (R13) -/

/-- Under the table of R13 a pin has a channel exactly when a row of the table names it. -/
theorem IsPinMapOfR13.eq_none_iff {map : Nat → Option Channel} (h : IsPinMapOfR13 map) (pin : Nat) :
    map pin = none ↔ pin ∉ pinMapRows.map Prod.fst := by
  rw [Option.eq_none_iff_forall_ne_some, List.mem_map]
  constructor
  · rintro hnone ⟨⟨_, ch⟩, hrow, rfl⟩
    exact hnone ch ((h _ ch).2 hrow)
  · exact fun hrows ch hch => hrows ⟨(pin, ch), (h pin ch).1 hch, rfl⟩

/-- Settles O8: D9's row is the model's own; the other rows are those of the premise. -/
theorem pinMapHasExactlyTheSixPins : Obligations.PinMapHasExactlyTheSixPins := by
  refine ⟨rfl, fun ch => ?_, fun h => ?_⟩
  · rcases ch with ⟨p, _ | _⟩ <;> rfl
  · have hrow (pin : Nat) (ch : Channel) (hmem : (pin, ch) ∈ pinMapRows) :
        (pwmPinMap pin).map channelIndex = some (channelIndex ch) := by
      rw [(h pin ch).2 hmem, Option.map_some]
    exact ⟨h.eq_none_iff, hrow 6 ⟨.p0, .A⟩ (by decide), hrow 5 ⟨.p0, .B⟩ (by decide), hrow 9 ⟨.p1, .A⟩ (by decide),
      hrow 10 ⟨.p1, .B⟩ (by decide), hrow 11 ⟨.p2, .A⟩ (by decide), hrow 3 ⟨.p2, .B⟩ (by decide)⟩

/-! ### One channel against the rest (R68) -/

/-- Bits [4:0] of a MODE value as a number. -/
theorem toNat_sharedBits (m : Byte) : (m.extractLsb' 0 5).toNat = m.toNat % 32 := by
  rw [BitVec.extractLsb'_toNat, Nat.shiftRight_zero]

theorem modeDisabled_toNat_mod (m : Byte) (c : Side) : (modeDisabled m c).toNat % 32 = m.toNat % 32 := by
  obtain ⟨-, -, -, hshared, -⟩ := mode_disabled_bits m c
  rw [← toNat_sharedBits, hshared, toNat_sharedBits]

theorem modeEnabled_toNat_mod (m : Byte) (c : Side) : (modeEnabled m c).toNat % 32 = sharedGroup.toNat := by
  obtain ⟨-, -, -, hshared, -⟩ := mode_enabled_bits m c
  rw [← toNat_sharedBits, hshared]
  rfl

/-- A legal shared group that is not SHARED is 0 (R24). -/
theorem LegalFields.shared_eq_zero {s : State} (h : LegalFields s) {p : Pair}
    (hne : (pairGet s.mode p).toNat % 32 ≠ sharedGroup.toNat) : (pairGet s.mode p).toNat % 32 = 0 := by
  rw [← toNat_sharedBits] at hne ⊢
  rcases h.sharedGroupIdleOrPwm p with hidle | hpwm
  · rw [hidle]
    rfl
  · rw [hpwm] at hne
    exact absurd rfl hne

/-- What a PWM command on channel ch keeps of the other channels (R68). -/
structure IsolatesSibling (ch : Channel) (s t : State) : Prop where
  oce : modeOce (pairGet t.mode ch.pair) (sibling ch).side = modeOce (pairGet s.mode ch.pair) (sibling ch).side
  buf : ∀ c, c ≠ ch → chanGet t.buf c = chanGet s.buf c
  mode : ∀ p, p ≠ ch.pair → pairGet t.mode p = pairGet s.mode p

/-- A PWM command on a mapped pin writes its own channel's registers alone, and a shared group other than by PWM_ENABLE
stays as it is. -/
theorem CommandEffect.isolates {i : Instr} {pin : Nat} {ch : Channel} {s t : State} (h : CommandEffect s i t)
    (hi : pinOperand i = some pin) (hpin : pwmPinMap pin = some ch) :
    IsolatesSibling ch s t ∧
      ((∃ duty, i = .pwmEnable pin duty ∧
          t.mode = pairSet s.mode ch.pair (modeEnabled (pairGet s.mode ch.pair) ch.side)) ∨
        ∀ p, (pairGet t.mode p).toNat % 32 = (pairGet s.mode p).toNat % 32) := by
  cases h with
  | initTwice | clkInit | msRead | usRead | sleepMasked | sleepNoClk | sleepMs | sleepUs | irqOff | irqOn => cases hi
  | enableBadPin _ _ hp | setDutyBadPin _ _ hp | disableBadPin _ hp | getDutyBadPin _ hp =>
    cases hi
    simp [hpin] at hp
  | enable _ duty c hp =>
    cases hi
    obtain rfl : ch = c := Option.some.inj (hpin.symm.trans hp)
    obtain ⟨-, hsib, -⟩ := mode_enabled_bits (pairGet s.mode ch.pair) ch.side
    refine ⟨⟨?_, fun c hc => ?_, fun p hp => ?_⟩, .inl ⟨duty, rfl, rfl⟩⟩
    · simp [hsib]
    · simp [chanGet_chanSet_ne _ _ hc]
    · simp [pairGet_pairSet_ne _ _ hp]
  | disable _ c hp =>
    cases hi
    obtain rfl : ch = c := Option.some.inj (hpin.symm.trans hp)
    obtain ⟨-, hsib, -⟩ := mode_disabled_bits (pairGet s.mode ch.pair) ch.side
    refine ⟨⟨?_, fun c hc => ?_, fun p hp => ?_⟩, .inr fun p => ?_⟩
    · simp [hsib]
    · simp [chanGet_chanSet_ne _ _ hc]
    · simp [pairGet_pairSet_ne _ _ hp]
    · rw [setBuf_mode, setMode_mode, pairGet_pairSet]
      split
      · next hp => rw [hp, modeDisabled_toNat_mod]
      · rfl
  | setDuty _ duty c hp =>
    cases hi
    obtain rfl : ch = c := Option.some.inj (hpin.symm.trans hp)
    exact ⟨⟨rfl, fun c hc => chanGet_chanSet_ne _ _ hc, fun _ _ => rfl⟩, .inr fun _ => rfl⟩
  | setDutyDisabled | getDuty => exact ⟨⟨rfl, fun _ _ => rfl, fun _ _ => rfl⟩, .inr fun _ => rfl⟩

/-- Settles O34: only PWM_ENABLE writes a shared group, and a legal one that it changes was 0. -/
theorem pwmCommandsIsolateTheSibling : Obligations.PwmCommandsIsolateTheSibling := by
  intro i pin ch s t hi hpin hlegal h
  have he := effect_of_exec h
  obtain ⟨hiso, hshared⟩ := he.isolates hi hpin
  obtain ⟨-, hact⟩ := he.waveform
  refine ⟨hiso.oce, hiso.buf _ (sibling_ne ch), hact, hiso.mode,
    fun c hc => hiso.buf c fun hch => hc (congrArg Channel.pair hch), fun p hne => ?_⟩
  rcases hshared with ⟨duty, rfl, hm⟩ | hkept
  · obtain rfl : p = ch.pair := by
      by_contra hp
      exact hne (by rw [hiso.mode p hp])
    rw [hm, pairGet_pairSet_self, modeEnabled_toNat_mod] at hne ⊢
    have hzero := hlegal.shared_eq_zero hne.symm
    exact ⟨⟨duty, rfl⟩, by omega, hzero, rfl⟩
  · exact absurd (hkept p) hne

/-! ### The channel state machine (R26, R69) -/

theorem channelDuty_eq_none_iff (s : State) (ch : Channel) : channelDuty s ch = none ↔ channelOn s ch = false := by
  simp [channelDuty]

theorem channelDuty_eq_some_iff (s : State) (ch : Channel) (x : Byte) :
    channelDuty s ch = some x ↔ channelOn s ch = true ∧ chanGet s.buf ch = x := by
  simp [channelDuty]

/-- Settles O35: each cell of R69's table is one effect of its command; PWM_GETDUTY of a Disabled channel reads the 0 of
invariant I1. -/
theorem channelsFollowTheStateMachine : Obligations.ChannelsFollowTheStateMachine := by
  intro pin duty ch s hpin hinv
  simp only [channelDuty_eq_none_iff, channelDuty_eq_some_iff]
  refine ⟨⟨_, exec_pwmEnable_some duty s hpin, ?_, chanGet_chanSet_self _ _ _⟩,
    fun hoff => exec_of_effect (.setDutyDisabled pin duty ch hpin hoff),
    fun x ⟨hon, _⟩ => ⟨_, exec_of_effect (.setDuty pin duty ch hpin hon), hon, chanGet_chanSet_self _ _ _⟩,
    ⟨_, exec_pwmDisable_some s hpin, ?_⟩, fun hoff => ?_, fun x ⟨_, hx⟩ => ?_⟩
  · rw [channelOn_eq, pairGet_pairSet_self]
    exact (mode_enabled_bits (pairGet s.mode ch.pair) ch.side).1
  · rw [channelOn_eq, pairGet_pairSet_self]
    exact (mode_disabled_bits (pairGet s.mode ch.pair) ch.side).1
  · rw [exec_of_effect (.getDuty pin ch hpin), hinv.disabledHasNoDuty ch hoff]
    rfl
  · rw [exec_of_effect (.getDuty pin ch hpin), hx, BitVec.ofNat_toNat]
    rfl

end Sys2Proof.Machine
end

section
/-! The invariants of a step (R24, R27, R57, R75), one lemma for each, and the state after reset (R96 to R98). -/

namespace Sys2Proof.Machine

/-! ### The PWM registers: I1 to I3 of R27 and the shared group of R24 -/

/-- A write of one pair's MODE that keeps the sibling's OCE bit keeps the OCE bit of every channel but its own. -/
theorem channelOn_of_mode_eq {s t : State} {m : Byte} {ch c : Channel} (hm : t.mode = pairSet s.mode ch.pair m)
    (hsib : modeOce m (otherSide ch.side) = modeOce (pairGet s.mode ch.pair) (otherSide ch.side)) (hne : c ≠ ch) :
    channelOn t c = channelOn s c := by
  rw [channelOn_eq, channelOn_eq, hm, pairGet_pairSet]
  split
  · next hp =>
    obtain rfl := eq_sibling_of_pair_eq hp hne
    exact hsib
  · rfl

/-- A channel after a PWM write: as it was, or Enabled, or with duty 0. -/
theorem PwmWrite.channel_cases {s t : State} (h : PwmWrite s t) (c : Channel) :
    (channelOn t c = channelOn s c ∧ chanGet t.buf c = chanGet s.buf c) ∨ channelOn t c = true ∨
      chanGet t.buf c = 0 := by
  cases h with
  | kept hm hb => exact .inl ⟨by rw [channelOn_eq, hm, channelOn_eq], by rw [hb]⟩
  | setDuty pin duty ch _ hon hm hb =>
    by_cases hc : c = ch
    · subst hc
      exact .inr (.inl (by rwa [channelOn_eq, hm]))
    · exact .inl ⟨by rw [channelOn_eq, hm, channelOn_eq], by rw [hb, chanGet_chanSet_ne _ _ hc]⟩
  | enable pin duty ch _ hm hb =>
    obtain ⟨hown, hsib, -⟩ := mode_enabled_bits (pairGet s.mode ch.pair) ch.side
    by_cases hc : c = ch
    · subst hc
      exact .inr (.inl (by rw [channelOn_eq, hm, pairGet_pairSet_self, hown]))
    · exact .inl ⟨channelOn_of_mode_eq hm hsib hc, by rw [hb, chanGet_chanSet_ne _ _ hc]⟩
  | disable pin ch _ hm hb =>
    obtain ⟨-, hsib, -⟩ := mode_disabled_bits (pairGet s.mode ch.pair) ch.side
    by_cases hc : c = ch
    · subst hc
      exact .inr (.inr (by rw [hb, chanGet_chanSet_self]))
    · exact .inl ⟨channelOn_of_mode_eq hm hsib hc, by rw [hb, chanGet_chanSet_ne _ _ hc]⟩

/-- PWM_DISABLE sets no OCE bit. -/
theorem modeOce_of_modeDisabled {m : Byte} {c d : Side} (h : modeOce (modeDisabled m c) d = true) :
    modeOce m d = true := by
  obtain ⟨hown, hsib, -⟩ := mode_disabled_bits m c
  have hd : d = c ∨ d = otherSide c := by cases c <;> cases d <;> simp [otherSide]
  rcases hd with rfl | rfl
  · simp [hown] at h
  · rwa [hsib] at h

section Writes

variable {s t : State} (h : PwmWrite s t)
include h

/-- I1: a channel that a write leaves Disabled and not at duty 0 was so before. -/
theorem PwmWrite.disabledHasNoDuty (hinv : DisabledHasNoDuty s) : DisabledHasNoDuty t := by
  intro c hoff
  rcases h.channel_cases c with ⟨hon, hb⟩ | hon | hb
  · rw [hb]
    exact hinv c (hon.symm.trans hoff)
  · simp [hon] at hoff
  · exact hb

/-- I2: PWM_ENABLE writes the shared group; PWM_DISABLE keeps it and enables nothing. -/
theorem PwmWrite.enabledHasSharedGroup (hinv : EnabledHasSharedGroup s) : EnabledHasSharedGroup t := by
  intro ch hon
  rw [channelOn_eq] at hon
  rcases h.mode_cases ch.pair with hm | ⟨c, hm | hm⟩ <;> rw [hm] at hon ⊢
  · exact hinv ch hon
  · obtain ⟨-, -, -, -, hbits⟩ := mode_enabled_bits (pairGet s.mode ch.pair) c
    exact hbits
  · obtain ⟨-, -, -, -, hwgm, hcs⟩ := mode_disabled_bits (pairGet s.mode ch.pair) c
    rw [hwgm, hcs]
    exact hinv ch (modeOce_of_modeDisabled hon)

/-- I3: no write touches bit 5. -/
theorem PwmWrite.modeBit5Clear (hinv : ModeBit5Clear s) : ModeBit5Clear t := by
  intro p
  rcases h.mode_cases p with hm | ⟨c, hm | hm⟩ <;> rw [hm]
  · exact hinv p
  · obtain ⟨-, -, hbit, -⟩ := mode_enabled_bits (pairGet s.mode p) c
    rw [hbit, hinv p]
  · obtain ⟨-, -, hbit, -⟩ := mode_disabled_bits (pairGet s.mode p) c
    rw [hbit, hinv p]

/-- R24: a shared group is all idle or all PWM. -/
theorem PwmWrite.sharedGroupIdleOrPwm (p : Pair)
    (hinv : (pairGet s.mode p).extractLsb' 0 5 = 0#5 ∨
      (pairGet s.mode p).extractLsb' 0 5 = sharedGroup.extractLsb' 0 5) :
    (pairGet t.mode p).extractLsb' 0 5 = 0#5 ∨ (pairGet t.mode p).extractLsb' 0 5 = sharedGroup.extractLsb' 0 5 := by
  rcases h.mode_cases p with hm | ⟨c, hm | hm⟩ <;> rw [hm]
  · exact hinv
  · obtain ⟨-, -, -, hshared, -⟩ := mode_enabled_bits (pairGet s.mode p) c
    exact .inr hshared
  · obtain ⟨-, -, -, hshared, -⟩ := mode_disabled_bits (pairGet s.mode p) c
    rwa [hshared]

end Writes

/-! ### The sleep and the fault latch: I4 and I5 of R27, R57, R75 -/

/-- I4: SLEEP_MS begins only with GIE = RUN = 1, and while it runs no command can clear GIE. -/
theorem step_sleepHasClock {s t : State} (hinv : SleepHasClock s) (h : step s = .next t) : SleepHasClock t := by
  cases unit_effect h with
  | command w i c k v _ hb _ _ hc =>
    cases hc with
    | sleepMs dur hg hr => simpa using fun _ => ⟨hg, hr⟩
    | _ => simp [SleepHasClock, hb]
  | sleeper ht => simpa [SleepHasClock] using fun hb _ => hinv hb
  | reset => simp [SleepHasClock]
  | _ => simpa [SleepHasClock] using hinv

/-- I5: FCODE is written with FAULT, and no code is 0. -/
theorem step_faultHasCode {s t : State} (hinv : FaultHasCode s) (h : step s = .next t) : FaultHasCode t := by
  cases unit_effect h with
  | faults code => simpa [FaultHasCode] using faultByte_ne_zero code
  | command w i c k v _ _ _ _ hc =>
    rcases hc.fault_eq with ⟨hf, hcode⟩ | ⟨code, rfl⟩
    · simpa [FaultHasCode, hf, hcode] using hinv
    · simpa [FaultHasCode] using faultByte_ne_zero code
  | reset => simp [FaultHasCode]
  | _ => simpa [FaultHasCode] using hinv

/-- A decoded duration fits SLP_REM, so it is 0 there only if it is 0. -/
theorem slpRem_ne_zero_of_decode {w : Word} {dur : Nat} (h : decode w = .ok (.sleepMs dur)) (hd : dur ≠ 0) :
    BitVec.ofNat 24 dur ≠ 0 := by
  have hlt : dur < 16777216 := of_decide_eq_true (encodeOfDecodeIsTheWord w _ h).1
  bv_omega

/-- R57: a sleep in progress has a step left; the SLEEPER step that consumes the last one clears BUSY. -/
theorem step_sleepHasRemaining {s t : State} (hinv : s.busy = true → s.slpRem ≠ 0) (h : step s = .next t) :
    t.busy = true → t.slpRem ≠ 0 := by
  cases unit_effect h with
  | command w i c k v _ hb hd _ hc =>
    cases hc with
    | sleepMs dur => simpa using slpRem_ne_zero_of_decode hd
    | _ => simp [hb]
  | sleeper ht => simp
  | reset => simp
  | _ => simpa using hinv

/-- R75: every code is at most 7. -/
theorem step_fcodeNamed {s t : State} (hinv : s.fcode.toNat ≤ 7) (h : step s = .next t) : t.fcode.toNat ≤ 7 := by
  cases unit_effect h with
  | faults code => exact faultByte_le code
  | command w i c k v _ _ _ _ hc =>
    rcases hc.fault_eq with ⟨-, hcode⟩ | ⟨code, rfl⟩
    · simpa [hcode] using hinv
    · exact faultByte_le code
  | reset => simp
  | _ => simpa using hinv

/-! ### Reset (R96 to R98) -/

theorem mode_resetUnit (s : State) (p : Pair) : pairGet (resetUnit s).mode p = 0 := by
  cases p <;> rfl

theorem buf_resetUnit (s : State) (ch : Channel) : chanGet (resetUnit s).buf ch = 0 := by
  rcases ch with ⟨_ | _ | _, _ | _⟩ <;> rfl

theorem channelOn_resetUnit (s : State) (ch : Channel) : channelOn (resetUnit s) ch = false := by
  rw [channelOn_eq, mode_resetUnit]
  cases ch.side <;> rfl

theorem usNow_resetUnit (s : State) : usNow (resetUnit s) = 0 := by
  simp [usNow, snapshotTick]

theorem reachableInv_resetUnit (s : State) : ReachableInv (resetUnit s) where
  disabledHasNoDuty := fun ch _ => buf_resetUnit s ch
  enabledHasSharedGroup := fun ch hon => absurd hon (Bool.eq_false_iff.1 (channelOn_resetUnit s ch))
  modeBit5Clear := fun p => by rw [mode_resetUnit]; rfl
  sleepHasClock := by simp [SleepHasClock]
  faultHasCode := by simp [FaultHasCode]

theorem legalFields_resetUnit (s : State) : LegalFields (resetUnit s) where
  sharedGroupIdleOrPwm := fun p => .inl (by rw [mode_resetUnit]; rfl)
  sleepHasRemaining := by simp
  fcodeNamed := by simp

/-- Settles O55: the model's own reset state is the unit's reset of itself. -/
theorem invariantsHoldAtReset : Obligations.InvariantsHoldAtReset :=
  ⟨reachableInv_resetUnit State.reset, legalFields_resetUnit State.reset⟩

/-- Settles O54: every enabling reads an element that reset has cleared; the registers that a read captures are 0, as
RESULT is. -/
theorem afterResetOnlyTheHostCanStep : Obligations.AfterResetOnlyTheHostCanStep := by
  refine ⟨fun s a ha => ?_, fun s ch => ?_, fun s => ⟨rfl, ?_⟩⟩
  · cases a with
    | host => exact absurd rfl ha
    | pwmTick p =>
      rw [agentEnabled, pwmTickEnabled, mode_resetUnit]
      rfl
    | _ => rfl
  · exact ⟨(channelDuty_eq_none_iff _ _).2 (channelOn_resetUnit s ch), buf_resetUnit s ch⟩
  · rw [exec_of_effect .usRead, usNow_resetUnit]
    rfl

/-! ### The invariants are kept -/

theorem resetUnit_of_step {s t : State} (h : step s = .next t) (hr : chosen s = .reset) : t = resetUnit (consume s) :=
  Host.Outcome.next.inj (h.symm.trans (step_of_reset hr))

/-- Settles O56: I1 to I3 are about what PWM commands write, I4 about the sleep, I5 about the fault latch. -/
theorem reachableInvIsKept : Obligations.ReachableInvIsKept := by
  intro s t hinv h
  by_cases hr : chosen s = .reset
  · rw [resetUnit_of_step h hr]
    exact reachableInv_resetUnit _
  · have hw := pwmWrite_of_step h hr
    exact ⟨hw.disabledHasNoDuty hinv.disabledHasNoDuty, hw.enabledHasSharedGroup hinv.enabledHasSharedGroup,
      hw.modeBit5Clear hinv.modeBit5Clear, step_sleepHasClock hinv.sleepHasClock h,
      step_faultHasCode hinv.faultHasCode h⟩

/-- Settles O57: the same three parts of the unit, one lemma for each field. -/
theorem legalFieldsAreKept : Obligations.LegalFieldsAreKept := by
  intro s t hinv h
  by_cases hr : chosen s = .reset
  · rw [resetUnit_of_step h hr]
    exact legalFields_resetUnit _
  · have hw := pwmWrite_of_step h hr
    exact ⟨fun p => hw.sharedGroupIdleOrPwm p (hinv.sharedGroupIdleOrPwm p),
      step_sleepHasRemaining hinv.sleepHasRemaining h, step_fcodeNamed hinv.fcodeNamed h⟩

end Sys2Proof.Machine
end

section
/-! The clock along runs (R59 to R61, R81, R89, R101): the microsecond value as bit-vector arithmetic, what one step adds to
it, sums along a path, the end of a sleep, and a fair schedule. -/

namespace Sys2Proof.Machine

/-! ### The microsecond value (R10) -/

/-- R10 modulo 2^32: 256 counts to a tick and 4 microseconds to a count. -/
theorem usNow_eq (s : State) : usNow s = (snapshotTick s * 256 + s.raw.setWidth 32) * 4 := by
  apply BitVec.eq_of_toNat_eq
  have hraw : s.raw.toNat < 2 ^ 32 := by omega
  simp only [usNow_toNat, Config.usNum, Config.usDen, BitVec.toNat_mul, BitVec.toNat_add,
    BitVec.ofNat_eq_ofNat, BitVec.toNat_ofNat, BitVec.toNat_setWidth, Nat.mod_eq_of_lt hraw]
  omega

/-- Where the correction applies whenever an overflow is pending, the tick is read as if it had been serviced. -/
theorem snapshotTick_of_low {s : State} (h : s.ovfPend = true → s.raw.toNat < Config.pendLowLimit) :
    snapshotTick s = if s.ovfPend = true then s.tick + 1 else s.tick := by
  rw [snapshotTick]
  by_cases hp : s.ovfPend = true
  · rw [if_pos ⟨hp, h hp⟩, if_pos hp]
  · rw [if_neg (fun hboth => hp hboth.1), if_neg hp]

theorem usNow_congr {s t : State} (htick : t.tick = s.tick) (hraw : t.raw = s.raw) (hovf : t.ovfPend = s.ovfPend) :
    usNow t = usNow s := by
  rw [usNow_eq, usNow_eq, snapshotTick, snapshotTick, htick, hraw, hovf]

/-- R60: servicing a pending overflow while RAW is below PEND_LOW_LIMIT does not move the microsecond value. -/
theorem usNow_isrOvf {s : State} (hp : s.ovfPend = true) (hlow : s.raw.toNat < Config.pendLowLimit) :
    usNow (isrOvf s) = usNow s := by
  rw [usNow_eq, usNow_eq, snapshotTick_of_low (s := s) fun _ => hlow, if_pos hp, snapshotTick_of_low (by simp)]
  rfl

/-- A count moves the microsecond value by 4, also through the wrap, where it becomes pending. -/
theorem usNow_rawStep {s : State} (hs : s.ovfPend = true → s.raw.toNat < Config.pendLowLimit)
    (ht : (rawStep s).ovfPend = true → (rawStep s).raw.toNat < Config.pendLowLimit) :
    usNow (rawStep s) = usNow s + 4 := by
  rw [usNow_eq, usNow_eq, snapshotTick_of_low hs, snapshotTick_of_low ht]
  by_cases hwrap : s.raw = 255
  · have hclear : s.ovfPend = false := by
      by_contra hp
      exact absurd (hs (by simpa using hp)) (by simp [hwrap, Config.pendLowLimit])
    simp only [rawStep_of_eq hwrap, hclear, hwrap, if_true, Bool.false_eq_true, if_false]
    bv_omega
  · have hne : s.raw.toNat ≠ 255 := fun h => hwrap (BitVec.eq_of_toNat_eq h)
    simp only [rawStep_of_ne hwrap]
    generalize (if s.ovfPend = true then s.tick + 1 else s.tick) = tick
    bv_omega

/-! ### What one step adds -/

/-- A turn that is taken is its agent's step. -/
theorem step_of_takes {a : Agent} {s : State} (h : takes a s = true) :
    step s = agentStep a (consume s) ∧ agentEnabled a s = true := by
  rw [takes, Bool.and_eq_true, decide_eq_true_iff] at h
  obtain ⟨hc, he⟩ := h
  exact ⟨step_of_enabled hc he, he⟩

/-- A step that is no CLK_INIT and no reset adds to MS what ISR_CM counts. -/
theorem step_ms {s t : State} (h : step s = .next t) (hok : chosen s ≠ .reset ∧ executed s ≠ some .clkInit) :
    t.ms = s.ms + BitVec.ofNat 32 (takes .isrCm s).toNat := by
  obtain ⟨hr, hi⟩ := hok
  cases ht : takes .isrCm s with
  | true =>
    rw [(step_of_takes ht).1, agentStep] at h
    cases h
    simp
  | false =>
    obtain ⟨-, hms, -⟩ := countersHaveTheirOwnWriters s t h
    simpa [ht, hr, hi] using hms

/-- A step that is no CLK_INIT and no reset counts RAW, services an overflow, or leaves what the snapshot reads. -/
theorem step_snapshot {s t : State} (h : step s = .next t) (hr : chosen s ≠ .reset)
    (hi : executed s ≠ some .clkInit) :
    takes .rawStep s = true ∨ takes .isrOvf s = true ∨
      (t.tick = s.tick ∧ t.raw = s.raw ∧ t.ovfPend = s.ovfPend) := by
  cases unit_effect h with
  | command w i c k v _ _ _ he hc =>
    have hne : i ≠ .clkInit := fun heq => hi (heq ▸ he)
    obtain ⟨⟨htick, -, hraw⟩, ⟨hovf, -⟩, -⟩ := hc.clock_kept hne
    exact .inr (.inr (by simp [htick, hraw, hovf]))
  | rawStep ht => exact .inl ht
  | isrOvf ht => exact .inr (.inl ht)
  | reset hc => exact absurd hc hr
  | _ => exact .inr (.inr (by simp))

/-- Where no overflow is pending at PEND_LOW_LIMIT, such a step adds 4 microseconds for a count and none else. -/
theorem step_usNow {s t : State} (h : step s = .next t)
    (hok : chosen s ≠ .reset ∧ executed s ≠ some .clkInit ∧ (s.ovfPend = true → s.raw.toNat < Config.pendLowLimit))
    (ht : t.ovfPend = true → t.raw.toNat < Config.pendLowLimit) :
    usNow t = usNow s + BitVec.ofNat 32 (4 * (takes .rawStep s).toNat) := by
  obtain ⟨hr, hi, hs⟩ := hok
  cases hraw : takes .rawStep s with
  | true =>
    rw [(step_of_takes hraw).1, agentStep] at h
    cases h
    rw [usNow_rawStep (by simpa using hs) ht, usNow_consume]
    rfl
  | false =>
    have hsame : usNow t = usNow s := by
      rcases step_snapshot h hr hi with hraw' | hovf | ⟨htick, hraw', hovf⟩
      · simp [hraw] at hraw'
      · obtain ⟨hstep, hen⟩ := step_of_takes hovf
        rw [hstep, agentStep] at h
        cases h
        have hp : s.ovfPend = true := by
          rw [agentEnabled, isrOvfEnabled, Bool.and_eq_true] at hen
          exact hen.2
        rw [usNow_isrOvf (by simpa using hp) (by simpa using hs hp), usNow_consume]
      · exact usNow_congr htick hraw' hovf
    simp [hsame]

/-! ### Paths -/

/-- A property that the last state has, and every state that a path leaves, holds where the path starts. -/
theorem Path.start {ok P : State → Prop} {weight : State → Nat} {s t : State} {n : Nat} (h : Path ok weight s n t)
    (hok : ∀ u, ok u → P u) (ht : P t) : P s := by
  cases h with
  | refl => exact ht
  | head hs => exact hok s hs

/-- A value that each step raises by c for each unit of the weight is raised by c times the path's sum. -/
theorem Path.sum {ok P : State → Prop} {weight : State → Nat} {f : State → Word} {c : Nat} (hok : ∀ u, ok u → P u)
    (hstep : ∀ u v, step u = .next v → ok u → P v → f v = f u + BitVec.ofNat 32 (c * weight u))
    {s t : State} {n : Nat} (h : Path ok weight s n t) (ht : P t) : f t = f s + BitVec.ofNat 32 (c * n) := by
  induction h with
  | refl s => simp
  | head hs hu hpath ih =>
    rw [ih ht, hstep _ _ hu hs (hpath.start hok ht), Nat.mul_add, BitVec.ofNat_add, BitVec.add_assoc]

/-- A property that every step of a path keeps holds at its end. -/
theorem Path.invariant {ok P : State → Prop} {weight : State → Nat} (hstep : ∀ u v, step u = .next v → ok u → P u → P v)
    {s t : State} {n : Nat} (h : Path ok weight s n t) (hs : P s) : P t := by
  induction h with
  | refl => exact hs
  | head hok hu _ ih => exact ih (hstep _ _ hu hok hs)

/-- Settles O24: MS adds up the ISR_CM steps, and the two reads are of MS. -/
theorem msReadsDifferByTheServices : Obligations.MsReadsDifferByTheServices := by
  intro s t s' t' n hpath hs ht
  cases hs
  cases ht
  have hsum := hpath.sum (P := fun _ => True) (f := State.ms) (c := 1) (fun _ _ => trivial)
    (fun u v hu hok _ => by rw [Nat.one_mul]; exact step_ms hu hok) trivial
  rw [Nat.one_mul] at hsum
  rw [setResult_result, setResult_result, hsum, add_sub_cancel_left]

/-- Settles O25: the microsecond value adds up 4 for each RAWSTEP, and the two reads are of it. -/
theorem usReadsDifferByTheRawSteps : Obligations.UsReadsDifferByTheRawSteps := by
  intro s t s' t' n hpath hlow hs ht
  cases hs
  cases ht
  have hsum := hpath.sum (P := fun u => u.ovfPend = true → u.raw.toNat < Config.pendLowLimit) (f := usNow) (c := 4)
    (fun _ ⟨_, _, hu⟩ => hu) (fun u v hu hok hv => step_usNow hu hok hv) hlow
  rw [setResult_result, setResult_result, hsum, add_sub_cancel_left]

/-! ### The end of a sleep (R56, R57, R61) -/

/-- The microsecond value up to which a sleep in progress lasts: its timestamp and what remains of its duration. -/
def sleepEnd (s : State) : Word := s.slpStart + BitVec.ofNat 32 (s.slpRem.toNat * Config.sleepStepUs)

/-- SLEEPER moves one step of the duration from SLP_REM to SLP_START. -/
theorem sleepEnd_sleeperStep {s : State} (h : s.slpRem ≠ 0) : sleepEnd (sleeperStep s) = sleepEnd s := by
  have hrem : s.slpRem.toNat = (s.slpRem - 1).toNat + 1 := by bv_omega
  rw [sleepEnd, sleepEnd, sleeperStep_slpStart, sleeperStep_slpRem, hrem, Nat.succ_mul, BitVec.ofNat_add,
    BitVec.add_assoc, BitVec.add_comm (BitVec.ofNat 32 Config.sleepStepUs)]

/-- The end of a sleep in progress stands fixed, as only SLEEPER reaches its registers. -/
theorem step_sleepEnd {s t : State} (h : step s = .next t) (hb : s.busy = true) (hr : chosen s ≠ .reset)
    (hrem : s.slpRem ≠ 0) : sleepEnd t = sleepEnd s := by
  cases hs : takes .sleeper s with
  | true =>
    rw [(step_of_takes hs).1, agentStep] at h
    cases h
    rw [sleepEnd_sleeperStep (by rwa [consume_slpRem])]
    simp [sleepEnd]
  | false =>
    obtain ⟨-, -, -, hkept⟩ := sleepRunsToCompletion s t h hb hr
    have hregs : t.slpRem = s.slpRem ∧ t.slpStart = s.slpStart := by
      by_contra hne
      exact absurd (hkept (by tauto)) (by simp [hs])
    rw [sleepEnd, sleepEnd, hregs.1, hregs.2]

/-- An executed command is decoded from a word that nothing stops (R35). -/
theorem executed_eq_some {s : State} {i : Instr} (h : executed s = some i) :
    ∃ w, issuedWord s = some w ∧ s.fault = false ∧ s.busy = false ∧ decode w = .ok i := by
  unfold executed at h
  cases hw : issuedWord s with
  | none => simp [hw] at h
  | some w =>
    rw [hw] at h
    cases hf : s.fault <;> cases hb : s.busy <;> simp [hf, hb] at h
    cases hd : decode w with
    | error => simp [hd, Except.toOption] at h
    | ok j => exact ⟨w, rfl, rfl, rfl, by simpa [hd, Except.toOption] using h⟩

/-- A step that executes a command is what `exec` does with it after the latches are written; HOST then moves on. -/
theorem step_of_executed {s : State} {i : Instr} (he : executed s = some i) :
    ∃ c, step s = exec i (setLatches c (consume s)) ∨ step s = onNext (exec i (setLatches c (consume s))) bumpHpc := by
  obtain ⟨w, hw, hf, hb, hd⟩ := executed_eq_some he
  unfold issuedWord at hw
  split at hw
  · next hc =>
    split at hw
    · refine ⟨latchesOf w, .inr ?_⟩
      rw [step_of_host hc hw hb hf, execute, hd]
    · cases hw
  · next v hc =>
    cases hw
    refine ⟨{ s.cmdl with l3 := v }, .inl ?_⟩
    rw [step_of_busWrite (k := 3) hc (by omega), writeWindow, consume_cmdl]
    exact issue_of_decode (by simpa using hf) (by simpa using hb) hd
  · cases hw

/-- The step that executes a SLEEP_MS begins the sleep (R56). -/
theorem sleep_of_executed {s t : State} {d : Nat} (h : step s = .next t) (he : executed s = some (.sleepMs d))
    (hg : s.gie = true) (hr : s.run = true) :
    t.slpStart = usNow s ∧ t.slpRem = BitVec.ofNat 24 d ∧ t.busy = decide (d ≠ 0) := by
  obtain ⟨c, hstep⟩ := step_of_executed he
  have hexec : exec (.sleepMs d) (setLatches c (consume s)) = .next (beginSleep d (setLatches c (consume s))) :=
    exec_of_effect (.sleepMs d (by simpa using hg) (by simpa using hr))
  have hstart : usNow (setLatches c (consume s)) = usNow s := usNow_consume s
  rcases hstep with hstep | hstep <;> rw [hstep, hexec] at h <;> cases h <;> exact ⟨hstart, rfl, rfl⟩

/-- The last SLEEPER step of a sleep of d steps is due one step before its end, so its timestamp is d - 1 steps on. -/
theorem slpStart_of_sleepEnd {s : State} {start : Word} {d : Nat} (hd : 0 < d) (hone : s.slpRem = 1)
    (hend : sleepEnd s = start + BitVec.ofNat 32 (d * Config.sleepStepUs)) :
    s.slpStart = start + BitVec.ofNat 32 ((d - 1) * Config.sleepStepUs) := by
  obtain ⟨k, rfl⟩ := Nat.exists_eq_add_of_le' hd
  have hrem : (1 : BitVec 24).toNat * Config.sleepStepUs = Config.sleepStepUs := rfl
  rw [sleepEnd, hone, hrem, Nat.succ_mul, BitVec.ofNat_add, ← BitVec.add_assoc] at hend
  exact add_right_cancel hend

/-- A sleep that a step begins and no reset cuts off keeps its end up to every later state of the path. -/
theorem sleepEnd_of_path {s s' t : State} {d n : Nat} (hd0 : 0 < d) (hd : d ≤ 16777215)
    (he : executed s = some (.sleepMs d)) (hg : s.gie = true) (hr : s.run = true) (hs : step s = .next s')
    (hpath : Path (fun u => u.busy = true ∧ chosen u ≠ .reset) (fun _ => 0) s' n t) :
    sleepEnd t = usNow s + BitVec.ofNat 32 (d * Config.sleepStepUs) := by
  obtain ⟨hstart, hrem, -⟩ := sleep_of_executed hs he hg hr
  have hrem' : s'.slpRem.toNat = d := by rw [hrem, BitVec.toNat_ofNat, Nat.mod_eq_of_lt (by omega)]
  have hne : s'.slpRem ≠ 0 := by bv_omega
  obtain ⟨-, hend⟩ := hpath.invariant (P := fun u => (u.busy = true → u.slpRem ≠ 0) ∧ sleepEnd u = sleepEnd s')
    (fun u v hu ⟨hb, hreset⟩ ⟨hleft, hkept⟩ => ⟨step_sleepHasRemaining hleft hu,
      (step_sleepEnd hu hb hreset (hleft hb)).trans hkept⟩) ⟨fun _ => hne, rfl⟩
  rw [hend, sleepEnd, hstart, hrem']

/-- Settles O27: the sleep's end stays where SLEEP_MS put it, d steps after the issue, and its last SLEEPER step is due when
a whole step has passed since the timestamp. -/
theorem sleepMsIsNotEarly : Obligations.SleepMsIsNotEarly := by
  intro d n s s' t t' hd0 hd he hg hr hs hpath hb hrt ht hb'
  obtain ⟨-, -, hlast, -⟩ := sleepRunsToCompletion t t' ht hb hrt
  obtain ⟨htakes, hone⟩ := hlast hb'
  have hstart := slpStart_of_sleepEnd hd0 hone (sleepEnd_of_path hd0 hd he hg hr hs hpath)
  obtain ⟨-, hdue⟩ := (agentEnabled_sleeper_iff t).1 (step_of_takes htakes).2
  have htotal : usNow t - usNow s = BitVec.ofNat 32 ((d - 1) * Config.sleepStepUs) + (usNow t - t.slpStart) := by
    rw [hstart]
    abel
  refine ⟨htotal, fun hlt => ?_⟩
  have hsteps : d * Config.sleepStepUs = (d - 1) * Config.sleepStepUs + Config.sleepStepUs := by
    rw [← Nat.succ_mul, Nat.succ_eq_add_one, Nat.sub_add_cancel hd0]
  rw [htotal, BitVec.toNat_add, BitVec.toNat_ofNat, Nat.mod_add_mod, Nat.mod_eq_of_lt hlt]
  omega

/-! ### Hazards and services (R60, R81, R101) -/

/-- Settles O26: both reads are of the microsecond value, which the service does not move. -/
theorem pendingOverflowReadsAsServiced : Obligations.PendingOverflowReadsAsServiced := by
  intro s t u hp hlow ht hu
  cases ht
  cases hu
  exact (usNow_isrOvf hp hlow).symm

/-- Settles O28: the second overflow finds the flag set already; at 255 the correction for the first one is given up, a whole
tick of 1024 microseconds for a count of 4. -/
theorem unservicedOverflowsLoseTicks : Obligations.UnservicedOverflowsLoseTicks := by
  refine ⟨fun s hc hr hraw hp => ?_, fun s hc hr hraw hp => ⟨rawStep (consume s), step_of_enabled hc hr, ?_⟩⟩
  · have hp' : (consume s).ovfPend = true := by rw [consume_ovfPend, hp]
    rw [step_of_enabled hc hr, agentStep, rawStep_of_eq (by rw [consume_raw, hraw]), ← hp']
  · have hlow : snapshotTick s = s.tick + 1 := by rw [snapshotTick, if_pos ⟨hp, by rw [hraw]; decide⟩]
    have hhigh : snapshotTick (rawStep (consume s)) = s.tick := by
      rw [snapshotTick, if_neg (by simp [hraw, Config.pendLowLimit]), rawStep_tick, consume_tick]
    rw [usNow_eq, usNow_eq, hlow, hhigh, rawStep_raw, consume_raw, hraw]
    bv_omega

/-- Settles O46: neither service reads or writes what the other does. -/
theorem servicesCommute : Obligations.ServicesCommute := by
  intro s ho hc
  have hc' : isrCmEnabled (isrOvf s) = true := hc
  have ho' : isrOvfEnabled (isrCm s) = true := ho
  refine ⟨isrOvf s, isrCm s, isrCm (isrOvf s), ?_, ?_, ?_, ?_, rfl⟩
  · exact if_pos ho
  · exact if_pos hc'
  · exact if_pos hc
  · exact if_pos ho'

/-! ### A fair schedule (R89) -/

/-- With no reset, RUN stays 1 along a run. -/
theorem IsRun.run_from {e : Nat → Event} {r : Nat → State} (h : IsRun e r) (hr : ∀ m, e m ≠ .reset) {n : Nat}
    (hn : (r n).run = true) {m : Nat} (hm : n ≤ m) : (r m).run = true := by
  induction m, hm using Nat.le_induction with
  | base => exact hn
  | succ m _ ih =>
    exact (enablesHaveTheirOwnWriters _ _ ((runEvent_eq_step (e m) (r m)).symm.trans (h m)) (hr m)).1 ih

/-- Settles O59: RUN enables RAWSTEP from moment n on, so fairness grants it a turn, which counts. -/
theorem fairRunsKeepCounting : Obligations.FairRunsKeepCounting := by
  intro e r n hrun hfair hreset hn
  have hon (m : Nat) (hm : n ≤ m) : agentEnabled .rawStep (r m) = true := hrun.run_from hreset hn hm
  obtain ⟨m, hm, hturn⟩ := hfair .rawStep n hon
  have hcount : runEvent (e m) (r m) = .next (rawStep (r m)) := by
    rw [hturn]
    exact if_pos (hon m hm)
  exact ⟨m, hm, hturn, by rw [← Host.Outcome.next.inj (hcount.symm.trans (hrun m)), rawStep_raw]⟩

end Sys2Proof.Machine
end
